-- ==== Sys2Proof/Word.lean ====
section
/-! DEFINITION. The word types of the display core (spec/00_scope.md R11, R13). Every value is unsigned. -/

namespace Sys2Proof

/-- A byte: a segment pattern or a digit-select pattern (R13, R100, R103). -/
abbrev Byte := BitVec 8

/-- An operation word, and the result register's width (R13, R105). -/
abbrev OpWord := BitVec 32

/-- A serial frame F = seg ++ sel, and the width of CHAIN and OUT (R104, R300). -/
abbrev Frame := BitVec 16

/-- An analog input code (R13, R47). -/
abbrev Code := BitVec 16

/-- An elapsed-seconds value in its 13-bit field (R13, R32). -/
abbrev Elapsed := BitVec 13

/-- A display position, and the width of ActiveDigit (R13, R34). -/
abbrev Position := BitVec 2

/-- A digit candidate, the operand of SEGENC and the index of SegROM (R70, R107). -/
abbrev Digit := BitVec 4

/-- The level of a pin or of a button line: `true` is logic 1, `false` logic 0 (R13, R47). -/
abbrev Level := Bool

end Sys2Proof
end

