-- ==== Sys2Proof/Syntax.lean ====
section
/-! DEFINITION. The twelve operations of the display core (spec/30_encoding.md R106, R108), one constructor for each
row of spec/opcode_table.json. An operand is a bit vector of its field's width (R107). -/

namespace Sys2Proof

/-- An operation with its operand fields (R106 to R108). -/
inductive Instr where
  /-- SEGENC d: segment pattern of a digit (R140). -/
  | segenc (d : Digit)
  /-- SELENC p: select pattern of a position (R141). -/
  | selenc (p : Position)
  /-- SPLITT e: split elapsed seconds into MM:SS digits (R200). -/
  | splitt (e : Elapsed)
  /-- SPLITV c: split an analog code into voltmeter digits (R203). -/
  | splitv (c : Code)
  /-- RENDT p, e: segment pattern of position p in timer mode (R201). -/
  | rendt (p : Position) (e : Elapsed)
  /-- RENDV p, c: segment pattern of position p in voltmeter mode (R204). -/
  | rendv (p : Position) (c : Code)
  /-- WRITE s, t: shift out one frame (R160). -/
  | write (s t : Byte)
  /-- TICK: one 1-second tick (R180). -/
  | tick
  /-- TRESET: reset the counter (R182). -/
  | treset
  /-- TREAD: read the counter (R183). -/
  | tread
  /-- RTICK: one refresh tick (R230). -/
  | rtick
  /-- STEP: one step of the control sequencer (R250). -/
  | step
deriving DecidableEq, Repr, Inhabited

end Sys2Proof
end

