-- ==== Sys2Proof/WellFormed.lean ====
section
/-! DEFINITION. Well-formed operations (spec/30_encoding.md R107, R113). An operation as an assembler line writes it
has natural numbers for operands; one that does not fit its field is an assembly error and no word is produced. An
`Instr` has its operands in their fields already, so every `Instr` is well-formed (Laws/PerInstr.lean). An operand a
field can hold and the operation rejects (a digit of 10, elapsed seconds of 6000) is no error here: it is an operand
fault of the running core (R107, R281). -/

namespace Sys2Proof

/-- An operation as assembler text gives it, its operands not yet checked (R113). -/
inductive AsmOp where
  | segenc (d : Nat)
  | selenc (p : Nat)
  | splitt (e : Nat)
  | splitv (c : Nat)
  | rendt (p e : Nat)
  | rendv (p c : Nat)
  | write (s t : Nat)
  | tick
  | treset
  | tread
  | rtick
  | step
deriving DecidableEq, Repr, Inhabited

/-- Whether every operand fits its field: "An operand that does not fit its field (d > 15, p > 3, e > 8191,
c > 65535, s or t > 255) is an assembly error" (R113). -/
def AsmOp.wellFormed : AsmOp → Bool
  | .segenc d => decide (d ≤ 15)
  | .selenc p => decide (p ≤ 3)
  | .splitt e => decide (e ≤ 8191)
  | .splitv c => decide (c ≤ 65535)
  | .rendt p e => decide (p ≤ 3) && decide (e ≤ 8191)
  | .rendv p c => decide (p ≤ 3) && decide (c ≤ 65535)
  | .write s t => decide (s ≤ 255) && decide (t ≤ 255)
  | .tick | .treset | .tread | .rtick | .step => true

/-- The operation with its operands in their fields; meant for well-formed lines only. -/
def AsmOp.inFields : AsmOp → Instr
  | .segenc d => .segenc (BitVec.ofNat 4 d)
  | .selenc p => .selenc (BitVec.ofNat 2 p)
  | .splitt e => .splitt (BitVec.ofNat 13 e)
  | .splitv c => .splitv (BitVec.ofNat 16 c)
  | .rendt p e => .rendt (BitVec.ofNat 2 p) (BitVec.ofNat 13 e)
  | .rendv p c => .rendv (BitVec.ofNat 2 p) (BitVec.ofNat 16 c)
  | .write s t => .write (BitVec.ofNat 8 s) (BitVec.ofNat 8 t)
  | .tick => .tick
  | .treset => .treset
  | .tread => .tread
  | .rtick => .rtick
  | .step => .step

/-- Assembling: the operation, or none where an operand does not fit (R113). -/
def AsmOp.assemble (a : AsmOp) : Option Instr :=
  if a.wellFormed then some a.inFields else none

/-- The assembler line of an operation. -/
def Instr.toAsm : Instr → AsmOp
  | .segenc d => .segenc d.toNat
  | .selenc p => .selenc p.toNat
  | .splitt e => .splitt e.toNat
  | .splitv c => .splitv c.toNat
  | .rendt p e => .rendt p.toNat e.toNat
  | .rendv p c => .rendv p.toNat c.toNat
  | .write s t => .write s.toNat t.toNat
  | .tick => .tick
  | .treset => .treset
  | .tread => .tread
  | .rtick => .rtick
  | .step => .step

/-- An operation is well-formed when its assembler line is. -/
def Instr.wellFormed (i : Instr) : Bool := i.toAsm.wellFormed

end Sys2Proof
end

