-- ==== Sys2Proof/Decode.lean ====
section
/-! DEFINITION. The decoder, total on every 32-bit word (spec/30_encoding.md R105 to R110), and the encoder, written
from the patterns of R106. The core has no bytes in memory and no fetch: an operation word arrives whole, so there is
no byte order to decide (R41, R72, R74). -/

namespace Sys2Proof

/-- A row of the opcode map R108: a word w selects it exactly when w AND mask = pattern. `fields` reads the operands
from the word (R107). -/
structure OpRow where
  mnemonic : String
  mask : OpWord
  pattern : OpWord
  fields : OpWord → Instr

/-- The opcode map (R108), in the order of its rows. -/
def opRows : List OpRow :=
  [ ⟨"SEGENC", 0xFFFFFFF0, 0x10000000, fun w => .segenc (w.extractLsb' 0 4)⟩,
    ⟨"SELENC", 0xFFFFFFFC, 0x20000000, fun w => .selenc (w.extractLsb' 0 2)⟩,
    ⟨"SPLITT", 0xFFFFE000, 0x30000000, fun w => .splitt (w.extractLsb' 0 13)⟩,
    ⟨"SPLITV", 0xFFFF0000, 0x40000000, fun w => .splitv (w.extractLsb' 0 16)⟩,
    ⟨"RENDT", 0xFCFFE000, 0x50000000, fun w => .rendt (w.extractLsb' 24 2) (w.extractLsb' 0 13)⟩,
    ⟨"RENDV", 0xFCFF0000, 0x60000000, fun w => .rendv (w.extractLsb' 24 2) (w.extractLsb' 0 16)⟩,
    ⟨"WRITE", 0xFFFF0000, 0x70000000, fun w => .write (w.extractLsb' 8 8) (w.extractLsb' 0 8)⟩,
    ⟨"TICK", 0xFFFFFFFF, 0x80000000, fun _ => .tick⟩,
    ⟨"TRESET", 0xFFFFFFFF, 0x90000000, fun _ => .treset⟩,
    ⟨"TREAD", 0xFFFFFFFF, 0xA0000000, fun _ => .tread⟩,
    ⟨"RTICK", 0xFFFFFFFF, 0xB0000000, fun _ => .rtick⟩,
    ⟨"STEP", 0xFFFFFFFF, 0xC0000000, fun _ => .step⟩ ]

/-- Whether a word selects a row (R108). -/
def OpRow.selects (r : OpRow) (w : OpWord) : Bool := w &&& r.mask == r.pattern

/-- Why a word is illegal (R110). Both raise Fault(ILLEGAL_OP). -/
inductive DecodeReject where
  /-- OP is 0x0, 0xD, 0xE or 0xF -/
  | reservedOpcode
  /-- OP is defined and a reserved bit of its format is 1 -/
  | reservedBit
deriving DecidableEq, Repr

/-- The opcode field OP = w[31:28] (R105). -/
def opcodeOf (w : OpWord) : BitVec 4 := w.extractLsb' 28 4

/-- The decoder (R109): the row the word selects, or Illegal, with the reason. It reads no state (R111). -/
def decode (w : OpWord) : Except DecodeReject Instr :=
  match opRows.find? (fun r => r.selects w) with
  | some r => .ok (r.fields w)
  | none =>
    if 1 ≤ (opcodeOf w).toNat ∧ (opcodeOf w).toNat ≤ 12 then .error .reservedBit else .error .reservedOpcode

/-- The encoder: the operation's word, bit for bit as the patterns of R106 write it, most significant bits first. -/
def encode : Instr → OpWord
  | .segenc d => 0x1#4 ++ 0#24 ++ d
  | .selenc p => 0x2#4 ++ 0#26 ++ p
  | .splitt e => 0x3#4 ++ 0#15 ++ e
  | .splitv c => 0x4#4 ++ 0#12 ++ c
  | .rendt p e => 0x5#4 ++ 0#2 ++ p ++ 0#11 ++ e
  | .rendv p c => 0x6#4 ++ 0#2 ++ p ++ 0#8 ++ c
  | .write s t => 0x7#4 ++ 0#12 ++ s ++ t
  | .tick => 0x8#4 ++ 0#28
  | .treset => 0x9#4 ++ 0#28
  | .tread => 0xA#4 ++ 0#28
  | .rtick => 0xB#4 ++ 0#28
  | .step => 0xC#4 ++ 0#28

/-- The index in the opcode map of an operation's row: its opcode less one (R108). -/
def Instr.rowIndex : Instr → Nat
  | .segenc _ => 0
  | .selenc _ => 1
  | .splitt _ => 2
  | .splitv _ => 3
  | .rendt _ _ => 4
  | .rendv _ _ => 5
  | .write _ _ => 6
  | .tick => 7
  | .treset => 8
  | .tread => 9
  | .rtick => 10
  | .step => 11

/-- The instruction the decoder reads from the opcode-table word whose bits are `w` (the host's interface). Every row
of the table is one 32-bit word; a longer one is no operation word. -/
def decodeTableWord (nbits w : Nat) : Option Instr :=
  if nbits ≤ 32 ∧ w < 2 ^ 32 then
    match decode (BitVec.ofNat 32 w) with
    | .ok i => some i
    | .error _ => none
  else none

end Sys2Proof
end

