-- ==== Sys2Proof/Config.lean ====
section
/-! DEFINITION. The types of the parameters of spec/00_scope.md R7 that have more than one setting, the events the environment can send, and the free values: constants with no body, of which nothing can be
proved. The record of all parameters stands in Machine/Params.lean. -/

namespace Sys2Proof

/-- R7 `SAMPLE_POLICY`: when STEP in phase P3 samples the POT input (R253; spec/92_eei_decisions.md D7). The default
is `perCycle`. -/
inductive SamplePolicy where
  /-- sample at the refresh of position 0 only -/
  | perCycle
  /-- sample at every refresh -/
  | perDigit
deriving DecidableEq, Repr, Inhabited

/-- R7 `CASCADE_ORDER`: which physical register holds the first-shifted byte, the segment byte (R75, R164; D12). -/
inductive CascadeOrder where
  | segFirstChip
  | selFirstChip
deriving DecidableEq, Repr, Inhabited

/-- What the environment offers on the three input ports while one operation happens (R47; the annotation of R113).
`none` means a free draw: any value of the port's width, under no law (R48). -/
structure Inputs where
  resetN : Option Level := none
  modeN : Option Level := none
  pot : Option Code := none
deriving DecidableEq, Repr, Inhabited

/-- What the environment does next (R9, R81, R320). A run of the core is one total order of these. -/
inductive Event where
  /-- An operation is issued: its operation word arrives (R105), while the input ports show `inputs`. Which agent issues
  it follows from the word (R10). -/
  | word (w : OpWord) (inputs : Inputs)
  /-- The board is powered up again. The external chips come up with the contents `chain` and `out`, which are draws:
  any values (R320, R323; D11). -/
  | powerOn (chain out : Frame)
deriving DecidableEq, Repr, Inhabited

namespace Config

/-- The environment's event number `n` past the end of the events State lists: the environment chooses the order of
operations, and every order is admitted (R9, R81, R286). Free value. -/
opaque freeEvent : Nat → Event

/-- The level RESET_N shows at free draw number `n` (R48: "any value of the port's width, under no law"). Free value. -/
opaque freeResetN : Nat → Level

/-- The level MODE_N shows at free draw number `n` (R48). Free value. -/
opaque freeModeN : Nat → Level

/-- The code POT delivers at free draw number `n` (R48). Free value. -/
opaque freePot : Nat → Code

/-- What the chips of the external chain hold when the board is first powered up (R50, R323; D11). Free value. -/
opaque powerUpChain : Frame

/-- What the chips' parallel outputs show when the board is first powered up (R50, R323; D11). Free value. -/
opaque powerUpOut : Frame

/-- What a chip register no link reaches is taken to hold after pin write number `n` made without the link
(spec/93_implementation_defined.md I3: "CHAIN and OUT are any value"). Free value. -/
opaque freeChain : Nat → Frame

/-- What the parallel outputs no link reaches are taken to show after pin write number `n` made without the link (I3).
Free value. -/
opaque freeOut : Nat → Frame

/-- `CASCADE_ORDER` of the board, OPEN (R7, R75; D12). No rule of the core depends on it. Free value. -/
opaque cascadeOrder : CascadeOrder

end Config

end Sys2Proof
end

