-- ==== Sys2Proof/Machine/State.lean ====
section
/-! DEFINITION. The state of the display core (spec/10_state.md R30), the ways a step can stop, and the state after
power-on reset (R50; spec/70_reset_and_hazards.md R320). The two read-only tables of R30 are parameters and stand in
Machine/Params.lean (R46, R73; log 3). -/

namespace Sys2Proof.Machine

/-- MODE (R35): the flag's value 0 is `timer`, 1 is `voltmeter`. -/
inductive Mode where
  | timer
  | voltmeter
deriving DecidableEq, Repr, Inhabited

/-- PH (R40): the control-sequencer phase. The 2-bit register's values are P1 = 0, P2 = 1 and P3 = 2; the value 3 is
never held, and "a model types PH with three values" (R250). -/
inductive Phase where
  | p1
  | p2
  | p3
deriving DecidableEq, Repr, Inhabited

/-- The core's output pins (R44). -/
inductive Pin where
  | data
  | clock
  | latch
deriving DecidableEq, Repr, Inhabited

/-- One pin write, as TRACE records it (R44, R45). -/
structure PinEvent where
  pin : Pin
  level : Level
deriving DecidableEq, Repr, Inhabited

/-- The fault causes (R281). The register FLT holds their codes. -/
inductive FaultCause where
  /-- code 1: the word decodes to Illegal -/
  | illegalOp
  /-- code 2: SEGENC with a digit of 10 or more -/
  | digitRange
  /-- code 3: SPLITT or RENDT with 6000 or more elapsed seconds -/
  | operandRange
deriving DecidableEq, Repr, Inhabited

/-- The fault outcome. No step of the machine answers it: raising a fault is a next state with FLT set (R280), and a
halted core goes on accepting words without effect (R282). -/
inductive Fault where
  /-- The core is halted with this cause in FLT. Raised by Sys2Proof.Safety.verdict alone, which marks the halted state
  as "a fault outcome that refutes any claim of correct operation" (R282). Safe: it only withholds a claim. -/
  | halted (cause : FaultCause)
deriving DecidableEq, Repr

/-- The refusals. -/
inductive Refusal where
  /-- An instruction with no meaning yet, by mnemonic. Raised by a refused arm of exec, of which there is none now.
  Safe: nothing is claimed of a refused instruction. -/
  | notModelled (mnemonic : String)
deriving DecidableEq, Repr

/-- The outcome of a step or of an instruction. -/
abbrev Outcome := Host.Outcome

/-- The machine's state (R30), and after it what the environment has ready for the core (log 1, 2, 4). -/
structure State where
  /-- ES, ElapsedSeconds, u13 (R32) -/
  es : Elapsed
  /-- AD, ActiveDigit, u2 (R34) -/
  ad : Position
  /-- MODE, u1 (R35) -/
  mode : Mode
  /-- PR, the pending-refresh flag, u1 (R36) -/
  pr : Bool
  /-- VH, the analog code held for the cycle, u16 (R37) -/
  vh : Code
  /-- PH, the sequencer phase (R40) -/
  ph : Phase
  /-- RES, the result of the last query, u32 (R38) -/
  res : OpWord
  /-- FLT, the sticky fault cause, u2, 0 = none (R39) -/
  flt : BitVec 2
  /-- DATA, output pin register, u1 (R44) -/
  data : Level
  /-- CLOCK, output pin register, u1 (R44) -/
  clock : Level
  /-- LATCH, output pin register, u1 (R44) -/
  latch : Level
  /-- TRACE, every pin write since power-on reset, oldest first (R45) -/
  trace : List PinEvent
  /-- CHAIN, the external shift register, u16 (R300) -/
  chain : Frame
  /-- OUT, the external output register, u16 (R300) -/
  out : Frame
  /-- the board's SAMPLE_POLICY (R7; log 4); no operation changes it -/
  policy : SamplePolicy
  /-- whether the board's link to the shift registers is there (R165; log 14); no operation changes it -/
  link : Bool
  /-- what the environment does next, in order (R9, R81; log 1); past its end the events are free values -/
  events : List Event
  /-- what RESET_N, MODE_N and POT show at the operation that happens now (R47; log 2); where it is `none`, a sample is a
  free value (R48) -/
  inputs : Inputs
  /-- how many free values have been drawn (log 1, 2); the model's own counter -/
  draws : Nat
deriving DecidableEq, Repr

/-- The machine right after power-on reset (R50, R320). CHAIN and OUT belong to the external chips and come up with
any value. Nothing is ready from the environment: its events and draws are all free. -/
def State.reset : State where
  es := 0
  ad := 0
  mode := .timer
  pr := false
  vh := 0
  ph := .p1
  res := 0
  flt := 0
  data := false
  clock := false
  latch := false
  trace := []
  chain := Config.powerUpChain
  out := Config.powerUpOut
  policy := .perCycle
  link := true
  events := []
  inputs := { }
  draws := 0

end Sys2Proof.Machine
end

