-- ==== Sys2Proof/Machine/Flags.lean ====
section
/-! DEFINITION. The flags of the core. It has no condition codes and no arithmetic flag (spec/10_state.md R52): the
only flags are MODE (R35) and PR (R36). -/

namespace Sys2Proof.Machine

/-- PR <- 1, by RTICK (R230). -/
def setPending (s : State) : State := { s with pr := true }

/-- PR <- 0, by a refresh (R253). -/
def clearPending (s : State) : State := { s with pr := false }

/-- The mode a level of the mode button selects: pressed is Voltmeter, released is Timer (R252). -/
def modeOf (isPressed : Bool) : Mode := if isPressed then .voltmeter else .timer

/-- MODE as its 1-bit value (R35). -/
def modeBit : Mode → BitVec 1
  | .timer => 0
  | .voltmeter => 1

/-- PH as its 2-bit value (R40). -/
def phaseBits : Phase → BitVec 2
  | .p1 => 0
  | .p2 => 1
  | .p3 => 2

end Sys2Proof.Machine
end

