-- ==== Sys2Proof/Machine/Params.lean ====
section
/-! DEFINITION. The implementation parameters of spec/00_scope.md R7, as one record whose fields have the rule's names
and defaults, and the two read-only tables (spec/10_state.md R42, R43). Every definition a parameter rules takes the
record as a named argument with the default `standard`; exec and step run at that default, where R46 fixes the
constants (log 3). SAMPLE_POLICY alone is a field of State (log 4). -/

namespace Sys2Proof.Machine

/-- `SEG_ROM`: the ten segment bytes, for the digits 0 to 9 (R42). Read-only (R73). -/
def segTable : List Byte := [0xC0, 0xF9, 0xA4, 0xB0, 0x99, 0x92, 0x82, 0xF8, 0x80, 0x90]

/-- `SEL_ROM`: the four select bytes, for the positions 0 to 3 (R43). Read-only (R73). -/
def selTable : List Byte := [0xF1, 0xF2, 0xF4, 0xF8]

/-- The parameters (R7). The fields of State hold widths up to the defaults of ES_WIDTH, ADC_BITS, NUM_DIGITS and
FRAME_BITS, which is all the operands of the operation word have room for (R13, R106; log 19). What settings
do to which R7 gives no effect is log 20. -/
structure Params where
  /-- `ES_WIDTH`: bits of the ElapsedSeconds register -/
  esWidth : Nat := 13
  /-- `ES_MODULUS`: the value at which ElapsedSeconds wraps to 0 -/
  esModulus : Nat := 6000
  /-- `NUM_DIGITS`: display positions -/
  numDigits : Nat := 4
  /-- `SEG_ROM`: the segment bytes -/
  segRom : List Byte := segTable
  /-- `SEL_ROM`: the select bytes -/
  selRom : List Byte := selTable
  /-- `DP_MASK`: the AND mask that turns the decimal point on (R101) -/
  dpMask : Byte := 0x7F
  /-- `BLANK`: the pattern with all segments and the decimal point dark (R102) -/
  blank : Byte := 0xFF
  /-- `VREF_CV`: full-scale voltage in centivolts -/
  vrefCv : Nat := 330
  /-- `ADC_BITS`: width of the analog input code -/
  adcBits : Nat := 16
  /-- `ADC_FULL_SCALE`: the code that means fraction 1.0 -/
  adcFullScale : Nat := 65535
  /-- `CASCADE_ORDER`: which chip holds the first-shifted byte; OPEN, so its default is a free value (D12; log 9) -/
  cascadeOrder : CascadeOrder := Config.cascadeOrder
  /-- `TICK_PERIOD` in milliseconds; timing only, no rule of the model reads it (R345) -/
  tickPeriodMs : Nat := 1000
  /-- `REFRESH_PERIOD` in milliseconds; timing only, no rule of the model reads it (R345) -/
  refreshPeriodMs : Nat := 2
  /-- `FRAME_BITS`: bits shifted per write -/
  frameBits : Nat := 16
deriving DecidableEq, Repr

/-- The defaults of R7: the core itself. -/
def standard : Params := { }

/-- The identity string of a model of this core (R3). -/
def identity : String := "MyCSE211Project-display-core/spec-v7/ops-v1"

end Sys2Proof.Machine
end

