-- ==== Sys2Proof/Machine/Operands.lean ====
section
/-! DEFINITION. Where an operation's operands come from besides its word: the two read-only tables
(spec/20_memory.md R70, R71), the decimal-point mask (R101) and the input ports, whose samples are draws
(spec/10_state.md R47, R48). -/

namespace Sys2Proof.Machine

/-- The lookup of R70 at an index of any size: the table's entry for 0 to 9, Fault(DIGIT_RANGE) above. With other
parameters than the defaults the renderer can compute an index above 9, and it is not narrowed before the lookup: it
faults, as spec/93_implementation_defined.md I7 says of an intPart above 9. That I7 is read so, and that a table without
an entry for a digit faults too, is the model's choice (log 20). -/
def segEntry (k : Nat) (P : Params := standard) : Except FaultCause Byte :=
  if k ≤ 9 then
    match P.segRom[k]? with
    | some b => .ok b
    | none => .error .digitRange
  else .error .digitRange

/-- `SegROM[d]` (R70): the segment byte of a digit, or Fault(DIGIT_RANGE) for a digit above 9. -/
def segROM (d : Digit) (P : Params := standard) : Except FaultCause Byte := segEntry d.toNat P

/-- `SelROM[p]` (R71): the select byte of a position. A 2-bit index cannot leave a table of four entries;
that a shorter one gives 0 is the model's choice (log 20). -/
def selROM (p : Position) (P : Params := standard) : Byte := P.selRom.getD p.toNat 0

/-- A segment pattern with its decimal point forced on (R101). -/
def withPoint (pattern : Byte) (P : Params := standard) : Byte := pattern &&& P.dpMask

/-- One draw from a port: what the environment offers on it, or a free value, which uses up a number of the draw
counter. It writes nothing else (R48, R79). -/
def sample {α : Type} (offered : Option α) (free : Nat → α) (s : State) : α × State :=
  match offered with
  | some v => (v, s)
  | none => (free s.draws, { s with draws := s.draws + 1 })

/-- `Sample(RESET_N)` (R48). -/
def sampleResetN (s : State) : Level × State := sample s.inputs.resetN Config.freeResetN s

/-- `Sample(MODE_N)` (R48). -/
def sampleModeN (s : State) : Level × State := sample s.inputs.modeN Config.freeModeN s

/-- A value as the POT port delivers it: its low ADC_BITS bits (R7, R47). That a wider code loses its
high bits is the model's choice (log 20). -/
def portCode (c : Code) (P : Params := standard) : Code := BitVec.ofNat 16 (c.toNat % 2 ^ P.adcBits)

/-- `Sample(POT)` (R48): any value of the port's width. -/
def samplePot (s : State) (P : Params := standard) : Code × State :=
  let (c, s) := sample s.inputs.pot Config.freePot s
  (portCode c P, s)

/-- Whether a button's level means pressed: both buttons are active-low (R47). -/
def pressed (level : Level) : Bool := !level

end Sys2Proof.Machine
end

