-- ==== Sys2Proof/Machine/Ops.lean ====
section
/-! DEFINITION. The operations every meaning is built from: the halt check and raising a fault
(spec/60_exceptions.md R280 to R283), writing the result register, driving a pin with the external chain's reaction
(spec/10_state.md R44; spec/60_exceptions.md R300), taking the environment's next event, and power-on reset (R320). -/

namespace Sys2Proof.Machine

/-! ## Faults. The core has no trap and no return from one: a fault is sticky (R280, R285). -/

/-- The code FLT holds for a cause (R281). -/
def faultCode : FaultCause → BitVec 2
  | .illegalOp => 1
  | .digitRange => 2
  | .operandRange => 3

/-- The cause a value of FLT stands for; none for 0 (R281). -/
def causeOf (flt : BitVec 2) : Option FaultCause :=
  match flt.toNat with
  | 0 => none
  | 1 => some .illegalOp
  | 2 => some .digitRange
  | _ => some .operandRange

/-- `raise Fault(cause)` (R280): FLT takes the code and nothing else changes, so `s` is the state before the faulting
operation. The halt that follows is `whenRunning`. -/
def raise (cause : FaultCause) (s : State) : Outcome State Fault Refusal :=
  .next { s with flt := faultCode cause }

/-- The check every operation starts with (R282): when FLT is not 0 the operation is accepted and has no effect. -/
def whenRunning (body : State → Outcome State Fault Refusal) (s : State) : Outcome State Fault Refusal :=
  if s.flt = 0 then body s else .next s

/-- An operation's end: its effect on the state, or the fault it met, which writes none of that effect (R280). -/
def finish {α : Type} (value : Except FaultCause α) (effect : α → State) (s : State) : Outcome State Fault Refusal :=
  match value with
  | .ok v => .next (effect v)
  | .error cause => raise cause s

/-- A word that decodes to Illegal raises Fault(ILLEGAL_OP) (R109), unless the core is halted (R282). -/
def execIllegal (s : State) : Outcome State Fault Refusal := whenRunning (raise .illegalOp) s

/-! ## The result register -/

/-- RES <- zext_32(v) (R38). -/
def setResult {n : Nat} (v : BitVec n) (s : State) : State := { s with res := v.setWidth 32 }

/-! ## The pins and the external chain -/

/-- The three pin registers and the two registers of the external chain. -/
structure Wires where
  data : Level
  clock : Level
  latch : Level
  chain : Frame
  out : Frame
deriving DecidableEq, Repr

/-- The pins and the chain as State holds them. -/
def wiresOf (s : State) : Wires := ⟨s.data, s.clock, s.latch, s.chain, s.out⟩

/-- CHAIN[14:0] ++ DATA: one shift of the chain (R300). -/
def shiftIn (chain : Frame) (bit : Level) : Frame := chain.extractLsb' 0 15 ++ BitVec.ofBool bit

/-- What one pin write does to the pins and to the chain (R44, R300): a rising CLOCK shifts DATA in, a rising LATCH
commits CHAIN to OUT, every other write changes the pin alone. -/
def driveWire (e : PinEvent) (w : Wires) : Wires :=
  match e.pin with
  | .data => { w with data := e.level }
  | .clock =>
    { w with clock := e.level, chain := if e.level && !w.clock then shiftIn w.chain w.data else w.chain }
  | .latch => { w with latch := e.level, out := if e.level && !w.latch then w.chain else w.out }

/-- The state with other pins and chain. -/
def putWires (w : Wires) (s : State) : State :=
  { s with data := w.data, clock := w.clock, latch := w.latch, chain := w.chain, out := w.out }

/-- The pins and the chain after one pin write on the board: the chain reacts (R300), or, where the board has no link
to it, CHAIN and OUT are any value, a draw for each pin write (R165, I3; log 14). The pins are the same either way. -/
def boardWires (e : PinEvent) (s : State) : Wires :=
  let w := driveWire e (wiresOf s)
  if s.link then w else { w with chain := Config.freeChain s.draws, out := Config.freeOut s.draws }

/-- `Emit(pin, level)` (R44): the pin register is set, the event is appended to TRACE, and the board reacts. -/
def emit (e : PinEvent) (s : State) : State :=
  { putWires (boardWires e s) s with
    trace := s.trace ++ [e], draws := if s.link then s.draws else s.draws + 1 }

/-- A sequence of pin writes, in order. -/
def emitAll (es : List PinEvent) (s : State) : State := es.foldl (fun s e => emit e s) s

/-! ## The environment -/

/-- The environment's next event and the state with that event taken: the first one State lists, or a free value
(R9, R81). -/
def takeEvent (s : State) : Event × State :=
  match s.events with
  | event :: rest => (event, { s with events := rest })
  | [] => (Config.freeEvent s.draws, { s with draws := s.draws + 1 })

/-- The input ports show `inputs` from now on (R47). -/
def showInputs (inputs : Inputs) (s : State) : State := { s with inputs := inputs }

/-- Power-on reset (R50, R320), the external chips coming up with `chain` and `out`. It discards every earlier state of
the core, clears FLT and emits no pin event. The board's sampling policy, its link and what the environment has ready are not
the core's, and stay. -/
def powerOn (chain out : Frame) (s : State) : State :=
  { s with
    es := 0, ad := 0, mode := .timer, pr := false, vh := 0, ph := .p1, res := 0, flt := 0,
    data := false, clock := false, latch := false, trace := [], chain := chain, out := out }

end Sys2Proof.Machine
end

