-- ==== Sys2Proof/Machine/Renderer.lean ====
section
/-! DEFINITION. The decimal-digit extractor and mode renderer: SPLITT, SPLITV, RENDT, RENDV and the pure function
RenderDigit that STEP uses (spec/43_renderer.md). Arithmetic is exact, on naturals, and narrowed at the end. -/

namespace Sys2Proof.Machine

/-! ## Timer mode -/

/-- The operand check of timer mode: Fault(OPERAND_RANGE) for ES_MODULUS, 6000, or more elapsed seconds (R200, R201). -/
def elapsedInRange (e : Elapsed) (P : Params := standard) : Except FaultCause Nat :=
  if e.toNat < P.esModulus then .ok e.toNat else .error .operandRange

/-- The RES layout of SPLITT for `e` elapsed seconds: s ++ 0 ++ m and the four digits (R200). That 128
minutes and more lose their high bit is the model's choice (log 20). -/
def splitTimer (e : Nat) : BitVec 30 :=
  let m := e / 60
  let s := e % 60
  BitVec.ofNat 6 s ++ 0#1 ++ BitVec.ofNat 7 m
    ++ BitVec.ofNat 4 (m / 10) ++ BitVec.ofNat 4 (m % 10)
    ++ BitVec.ofNat 4 (s / 10) ++ BitVec.ofNat 4 (s % 10)

/-- `TimerDigit(p, e)` (R201): position 1 carries the decimal point, the MM.SS separator. -/
def timerDigit (p : Position) (e : Elapsed) (P : Params := standard) : Except FaultCause Byte := do
  let e ← elapsedInRange e P
  let m := e / 60
  let s := e % 60
  match p.toNat with
  | 0 => segEntry (m / 10) P
  | 1 => (withPoint · P) <$> segEntry (m % 10) P
  | 2 => segEntry (s / 10) P
  | _ => segEntry (s % 10) P

/-- SPLITT e (R200). -/
def execSplitt (e : Elapsed) (s : State) (P : Params := standard) : Outcome State Fault Refusal :=
  whenRunning (fun s => finish (elapsedInRange e P) (fun e => setResult (splitTimer e) s) s) s

/-- RENDT p, e (R201). -/
def execRendt (p : Position) (e : Elapsed) (s : State) (P : Params := standard) : Outcome State Fault Refusal :=
  whenRunning (fun s => finish (timerDigit p e P) (fun b => setResult b s) s) s

/-! ## Voltmeter mode -/

/-- `CV(c)` (R202): the code in centivolts, rounded toward zero, in exact arithmetic. -/
def centivolts (c : Code) (P : Params := standard) : Nat := c.toNat * P.vrefCv / P.adcFullScale

/-- The RES layout of SPLITV for `v` centivolts: v ++ 0 and the three digits (R203). That 512 centivolts
and more, or a volts digit above 15, lose their high bits is the model's choice (log 20). -/
def splitVolts (v : Nat) : BitVec 25 :=
  let i := v / 100
  let f := v % 100
  BitVec.ofNat 9 v ++ 0#4 ++ BitVec.ofNat 4 i ++ BitVec.ofNat 4 (f / 10) ++ BitVec.ofNat 4 (f % 10)

/-- `VoltDigit(p, c)` (R204): position 0 carries the decimal point, position 3 is blank. At settings of VREF_CV and
ADC_FULL_SCALE under which the volts digit is above 9, which R204 leaves open, position 0 faults (I7; log 20). -/
def voltDigit (p : Position) (c : Code) (P : Params := standard) : Except FaultCause Byte :=
  let v := centivolts c P
  let i := v / 100
  let f := v % 100
  match p.toNat with
  | 0 => (withPoint · P) <$> segEntry i P
  | 1 => segEntry (f / 10) P
  | 2 => segEntry (f % 10) P
  | _ => .ok P.blank

/-- SPLITV c (R203). -/
def execSplitv (c : Code) (s : State) (P : Params := standard) : Outcome State Fault Refusal :=
  whenRunning (fun s => .next (setResult (splitVolts (centivolts c P)) s)) s

/-- RENDV p, c (R204). -/
def execRendv (p : Position) (c : Code) (s : State) (P : Params := standard) : Outcome State Fault Refusal :=
  whenRunning (fun s => finish (voltDigit p c P) (fun b => setResult b s) s) s

/-! ## The renderer function -/

/-- `RenderDigit(mode, p, e, c)` (R205): only the mode's branch is evaluated. -/
def renderDigit (mode : Mode) (p : Position) (e : Elapsed) (c : Code) (P : Params := standard) : Except FaultCause Byte :=
  match mode with
  | .timer => timerDigit p e P
  | .voltmeter => voltDigit p c P

end Sys2Proof.Machine
end

