-- ==== Sys2Proof/Machine/Timer.lean ====
section
/-! DEFINITION. The elapsed-seconds counter: TICK, TRESET, TREAD (spec/42_timer.md). -/

namespace Sys2Proof.Machine

/-- ES <- 0, the effect TRESET and the reset button share (R182, R251). -/
def resetElapsed (s : State) : State := { s with es := 0 }

/-- One second more, wrapping at ES_MODULUS (R180), in a register of ES_WIDTH bits (R32).
That a register too narrow for ES_MODULUS wraps at its width is the model's choice (log 20). -/
def nextSecond (es : Elapsed) (P : Params := standard) : Elapsed :=
  if es.toNat = P.esModulus - 1 then 0 else BitVec.ofNat 13 ((es.toNat + 1) % 2 ^ P.esWidth)

/-- TICK (R180). -/
def execTick (s : State) (P : Params := standard) : Outcome State Fault Refusal :=
  whenRunning (fun s => .next { s with es := nextSecond s.es P }) s

/-- TRESET (R182): only the counter is reset. -/
def execTreset (s : State) : Outcome State Fault Refusal :=
  whenRunning (fun s => .next (resetElapsed s)) s

/-- TREAD (R183): RES <- zext_32(ES). -/
def execTread (s : State) : Outcome State Fault Refusal :=
  whenRunning (fun s => .next (setResult s.es s)) s

end Sys2Proof.Machine
end

