-- ==== Sys2Proof/Machine/Transport.lean ====
section
/-! DEFINITION. The serializer and WRITE (spec/41_transport.md). -/

namespace Sys2Proof.Machine

/-- The frame F = s ++ t (R104). -/
def frameOf (segments select : Byte) : Frame := segments ++ select

/-- The pin writes that send F[n-1] down to F[0]: DATA, then CLOCK low and high, for each bit (R161). -/
def bitEvents (f : Frame) : Nat → List PinEvent
  | 0 => []
  | n + 1 => ⟨.data, f.getLsbD n⟩ :: ⟨.clock, false⟩ :: ⟨.clock, true⟩ :: bitEvents f n

/-- The pin writes of one frame (R161): 50 with FRAME_BITS at 16. The spec fixes no other count; that a frame of n bits
sends F[n-1] down to F[0], leaving out the top segment bits below 16 and sending 0 above, is the model's choice
(log 20). -/
def frameEvents (f : Frame) (P : Params := standard) : List PinEvent :=
  ⟨.latch, false⟩ :: (bitEvents f P.frameBits ++ [⟨.latch, true⟩])

/-- `Serialize(s, t)` (R161), atomic (R162). -/
def serialize (segments select : Byte) (s : State) (P : Params := standard) : State :=
  emitAll (frameEvents (frameOf segments select) P) s

/-- WRITE s, t (R160): any byte is accepted for either operand. -/
def execWrite (segments select : Byte) (s : State) (P : Params := standard) : Outcome State Fault Refusal :=
  whenRunning (fun s => .next (serialize segments select s P)) s

end Sys2Proof.Machine
end

