-- ==== Sys2Proof/Machine/Control.lean ====
section
/-! DEFINITION. The control sequencer, STEP (spec/45_control.md). -/

namespace Sys2Proof.Machine

/-- STEP in phase P1 (R251): sample the reset button; pressed clears ES. -/
def stepP1 (s : State) : Outcome State Fault Refusal :=
  let (level, s) := sampleResetN s
  .next { s with es := if pressed level then 0 else s.es, ph := .p2 }

/-- STEP in phase P2 (R252): MODE follows the mode button. -/
def stepP2 (s : State) : Outcome State Fault Refusal :=
  let (level, s) := sampleModeN s
  .next { s with mode := modeOf (pressed level), ph := .p3 }

/-- Whether a refresh of this position samples POT under the policy (R253). -/
def samplesPot (policy : SamplePolicy) (ad : Position) : Bool :=
  decide (policy = .perDigit) || decide (ad = 0)

/-- The sampling of a refresh: VH <- Sample(POT) where the policy says so (R253). -/
def holdVoltage (s : State) (P : Params := standard) : State :=
  if samplesPot s.policy s.ad then
    let (code, s) := samplePot s P
    { s with vh := code }
  else s

/-- (AD + 1) mod NUM_DIGITS: the position after the active one (R34, R253). -/
def nextPosition (ad : Position) (P : Params := standard) : Position := BitVec.ofNat 2 ((ad.toNat + 1) % P.numDigits)

/-- STEP in phase P3 (R253): with a refresh pending, clear it, sample, render, write, advance; then on to P1. The
write uses the position before the advance. -/
def stepP3 (s : State) (P : Params := standard) : Outcome State Fault Refusal :=
  if s.pr then
    let r := holdVoltage (clearPending s) P
    finish (renderDigit r.mode r.ad r.es r.vh P)
      (fun seg => { serialize seg (selROM r.ad P) r P with ad := nextPosition r.ad P, ph := .p1 }) s
  else .next { s with ph := .p1 }

/-- STEP (R250): the step the phase names. -/
def execStep (s : State) (P : Params := standard) : Outcome State Fault Refusal :=
  whenRunning (fun s =>
    match s.ph with
    | .p1 => stepP1 s
    | .p2 => stepP2 s
    | .p3 => stepP3 s P) s

end Sys2Proof.Machine
end

