-- ==== Sys2Proof/Machine/Encoder.lean ====
section
/-! DEFINITION. The segment encoder's operations, SEGENC and SELENC (spec/40_encoder.md). -/

namespace Sys2Proof.Machine

/-- SEGENC d (R140): RES <- zext_32(SegROM[d]), or Fault(DIGIT_RANGE) for a digit of 10 or more. -/
def execSegenc (d : Digit) (s : State) (P : Params := standard) : Outcome State Fault Refusal :=
  whenRunning (fun s => finish (segROM d P) (fun b => setResult b s) s) s

/-- SELENC p (R141): RES <- zext_32(SelROM[p]). -/
def execSelenc (p : Position) (s : State) (P : Params := standard) : Outcome State Fault Refusal :=
  whenRunning (fun s => .next (setResult (selROM p P) s)) s

end Sys2Proof.Machine
end

