-- ==== Sys2Proof/Machine/Scheduler.lean ====
section
/-! DEFINITION. The multiplexer scheduler's own operation, RTICK (spec/44_scheduler.md). The advance of ActiveDigit is
part of STEP (Machine/Control.lean). -/

namespace Sys2Proof.Machine

/-- RTICK (R230): PR <- 1. A tick that finds PR set coalesces with the one before. -/
def execRtick (s : State) : Outcome State Fault Refusal :=
  whenRunning (fun s => .next (setPending s)) s

end Sys2Proof.Machine
end

