-- ==== Sys2Proof/Machine/Dispatch.lean ====
section
/-! DEFINITION. The meaning of every operation, one arm each, in the order of the opcode map (spec/30_encoding.md
R108). -/

namespace Sys2Proof.Machine

def exec (i : Instr) (s : State) : Host.Outcome State Fault Refusal :=
  match i with
  | .segenc d => Sys2Proof.Machine.execSegenc d s
  | .selenc p => Sys2Proof.Machine.execSelenc p s
  | .splitt e => Sys2Proof.Machine.execSplitt e s
  | .splitv c => Sys2Proof.Machine.execSplitv c s
  | .rendt p e => Sys2Proof.Machine.execRendt p e s
  | .rendv p c => Sys2Proof.Machine.execRendv p c s
  | .write t u => Sys2Proof.Machine.execWrite t u s
  | .tick => Sys2Proof.Machine.execTick s
  | .treset => Sys2Proof.Machine.execTreset s
  | .tread => Sys2Proof.Machine.execTread s
  | .rtick => Sys2Proof.Machine.execRtick s
  | .step => Sys2Proof.Machine.execStep s

end Sys2Proof.Machine
end

