-- ==== Sys2Proof/Machine/Step.lean ====
section
/-! DEFINITION. One step of the machine: the environment's next event happens (spec/00_scope.md R9; spec/20_memory.md
R81). An operation word is decoded and run; power-on reset discards the core's state (R320). -/

namespace Sys2Proof.Machine

/-- A word arriving at the core: its operation runs, or it is illegal (R109). -/
def execWord (w : OpWord) (s : State) : Host.Outcome State Fault Refusal :=
  match decode w with
  | .ok i => exec i s
  | .error _ => execIllegal s

/-- One event of the environment. -/
def execEvent (event : Event) (s : State) : Host.Outcome State Fault Refusal :=
  match event with
  | .word w inputs => execWord w (showInputs inputs s)
  | .powerOn chain out => .next (powerOn chain out s)

/-- One step: the next event happens. -/
def step (s : State) : Host.Outcome State Fault Refusal :=
  execEvent (takeEvent s).1 (takeEvent s).2

/-- The state in which the word `w` is what arrives next (the host's interface): it is put before the events that are
ready, the input ports showing what they show in `s`. Operation words come from outside the core and are not fetched
(R41). -/
def State.withFetchWord (s : State) (_nbits w : Nat) : State :=
  { s with events := .word (BitVec.ofNat 32 w) s.inputs :: s.events }

end Sys2Proof.Machine
end

