-- ==== Sys2Proof/Machine/Asm.lean ====
section
/-! DEFINITION. The assembler (spec/30_encoding.md R113, R114): one operation per line, mnemonic, operands in decimal
or hexadecimal, input annotations in braces, and the pseudo-operations. It is text only; the core sees the words it
makes. Text is a list of characters. -/

namespace Sys2Proof.Machine

/-- What a line of assembler text names: an operation or a pseudo-operation (R113, R114). -/
inductive AsmLine where
  | op (a : AsmOp)
  | render (m p e c : Nat)
  | iter
  | refresh
  | ticks (n : Nat)
deriving DecidableEq, Repr

/-- An input annotation `{PORT=value}`: the draw of the STEP it stands after (R113). -/
inductive Offer where
  | resetN (v : Nat)
  | modeN (v : Nat)
  | pot (v : Nat)
deriving DecidableEq, Repr

/-- The operations a line stands for (R114); none for RENDER with a mode that is neither 0 nor 1. -/
def AsmLine.expand : AsmLine → Option (List AsmOp)
  | .op a => some [a]
  | .render m p e c => if m = 0 then some [.rendt p e] else if m = 1 then some [.rendv p c] else none
  | .iter => some [.step, .step, .step]
  | .refresh => some [.rtick, .step, .step, .step]
  | .ticks n => some (List.replicate n .tick)

/-- Assembling a list of operations: none if one of them does not fit its fields (R113). -/
def assembleAll : List AsmOp → Option (List Instr)
  | [] => some []
  | a :: rest =>
    match a.assemble, assembleAll rest with
    | some i, some is => some (i :: is)
    | _, _ => none

/-- Assembling a line. -/
def AsmLine.assemble (l : AsmLine) : Option (List Instr) :=
  match l.expand with
  | some ops => assembleAll ops
  | none => none

/-! ## Reading text -/

/-- A list of characters without the spaces around it. -/
def trimSpaces (cs : List Char) : List Char :=
  ((cs.dropWhile (· == ' ')).reverse.dropWhile (· == ' ')).reverse

/-- The parts of a list of characters between the separators `sep`. -/
def splitParts (sep : Char) : List Char → List (List Char)
  | [] => [[]]
  | c :: cs =>
    if c == sep then [] :: splitParts sep cs
    else
      match splitParts sep cs with
      | part :: rest => (c :: part) :: rest
      | [] => [[c]]

/-- The value of a digit in base 10 or 16. -/
def digitValue (base : Nat) (c : Char) : Option Nat :=
  let n := c.toNat
  let v :=
    if 48 ≤ n ∧ n ≤ 57 then n - 48
    else if 65 ≤ n ∧ n ≤ 70 then n - 55
    else if 97 ≤ n ∧ n ≤ 102 then n - 87
    else base
  if v < base then some v else none

/-- The value of a list of digits read after `acc`. -/
def digitsValue (base : Nat) : List Char → Nat → Option Nat
  | [], acc => some acc
  | c :: cs, acc =>
    match digitValue base c with
    | some v => digitsValue base cs (acc * base + v)
    | none => none

/-- A number in decimal or `0x` hexadecimal (R113). -/
def readNumber (cs : List Char) : Option Nat :=
  match trimSpaces cs with
  | [] => none
  | '0' :: 'x' :: d :: ds => digitsValue 16 (d :: ds) 0
  | d :: ds => digitsValue 10 (d :: ds) 0

/-- Comma-separated numbers; none where there is no text. -/
def readOperands (cs : List Char) : Option (List Nat) :=
  match trimSpaces cs with
  | [] => some []
  | cs => (splitParts ',' cs).mapM readNumber

/-- The line a mnemonic and its operands name, if their number is right (R113, R114). -/
def lineOf (mnemonic : List Char) (operands : List Nat) : Option AsmLine :=
  match mnemonic, operands with
  | ['S', 'E', 'G', 'E', 'N', 'C'], [d] => some (.op (.segenc d))
  | ['S', 'E', 'L', 'E', 'N', 'C'], [p] => some (.op (.selenc p))
  | ['S', 'P', 'L', 'I', 'T', 'T'], [e] => some (.op (.splitt e))
  | ['S', 'P', 'L', 'I', 'T', 'V'], [c] => some (.op (.splitv c))
  | ['R', 'E', 'N', 'D', 'T'], [p, e] => some (.op (.rendt p e))
  | ['R', 'E', 'N', 'D', 'V'], [p, c] => some (.op (.rendv p c))
  | ['W', 'R', 'I', 'T', 'E'], [s, t] => some (.op (.write s t))
  | ['T', 'I', 'C', 'K'], [] => some (.op .tick)
  | ['T', 'R', 'E', 'S', 'E', 'T'], [] => some (.op .treset)
  | ['T', 'R', 'E', 'A', 'D'], [] => some (.op .tread)
  | ['R', 'T', 'I', 'C', 'K'], [] => some (.op .rtick)
  | ['S', 'T', 'E', 'P'], [] => some (.op .step)
  | ['R', 'E', 'N', 'D', 'E', 'R'], [m, p, e, c] => some (.render m p e c)
  | ['I', 'T', 'E', 'R'], [] => some .iter
  | ['R', 'E', 'F', 'R', 'E', 'S', 'H'], [] => some .refresh
  | ['T', 'I', 'C', 'K', 'S'], [n] => some (.ticks n)
  | _, _ => none

/-- An annotation's port and value; a value must fit the port (R47). -/
def readOffer (cs : List Char) : Option Offer :=
  match splitParts '=' cs with
  | [port, value] =>
    match trimSpaces port, readNumber value with
    | ['R', 'E', 'S', 'E', 'T', '_', 'N'], some v => if v ≤ 1 then some (.resetN v) else none
    | ['M', 'O', 'D', 'E', '_', 'N'], some v => if v ≤ 1 then some (.modeN v) else none
    | ['P', 'O', 'T'], some v => if v ≤ 65535 then some (.pot v) else none
    | _, _ => none
  | _ => none

/-- The opening brace. -/
def openBrace : Char := Char.ofNat 123

/-- The closing brace. -/
def closeBrace : Char := Char.ofNat 125

/-- The mnemonic and the operands of a line's text. -/
def readOp (cs : List Char) : Option AsmLine :=
  let cs := trimSpaces cs
  match readOperands (cs.dropWhile (· != ' ')) with
  | some operands => lineOf (cs.takeWhile (· != ' ')) operands
  | none => none

/-- Reading one line: what it names, and the annotation if it has one, which only a STEP may carry (R113). -/
def readLine (cs : List Char) : Option (AsmLine × Option Offer) :=
  match splitParts openBrace cs with
  | [text] => (readOp text).map (fun l => (l, none))
  | [text, note] =>
    match (trimSpaces note).reverse with
    | c :: rest =>
      if c = closeBrace then
        match readOp text, readOffer rest.reverse with
        | some (.op .step), some offer => some (.op .step, some offer)
        | _, _ => none
      else none
    | [] => none
  | _ => none

/-! ## Giving a program to the machine -/

/-- What the ports show while an annotated operation happens (R47, R113). -/
def inputsOf : Option Offer → Inputs
  | none => { }
  | some (.resetN v) => { resetN := some (decide (v = 1)) }
  | some (.modeN v) => { modeN := some (decide (v = 1)) }
  | some (.pot v) => { pot := some (BitVec.ofNat 16 v) }

/-- The events one line of text stands for: its operations, each word with the line's annotation (R113, R114). -/
def eventsOf (cs : List Char) : Option (List Event) :=
  match readLine cs with
  | some (line, note) => line.assemble.map (fun is => is.map (fun i => .word (encode i) (inputsOf note)))
  | none => none

/-- The environment has these events ready, after the ones it has already (R9). -/
def loadEvents (events : List Event) (s : State) : State := { s with events := s.events ++ events }

end Sys2Proof.Machine
end

