-- ==== Sys2Proof/Machine/Realisation.lean ====
section
/-! DEFINITION. The core with other parameters than the defaults (spec/00_scope.md R7: "A model takes each as a named
argument, with the default given"): exec and step over any parameters. At the defaults they are exec and step
themselves. -/

namespace Sys2Proof.Machine

/-- The meaning of an operation on a core with parameters `P`. -/
def execFor (i : Instr) (s : State) (P : Params := standard) : Outcome State Fault Refusal :=
  match i with
  | .segenc d => execSegenc d s P
  | .selenc p => execSelenc p s P
  | .splitt e => execSplitt e s P
  | .splitv c => execSplitv c s P
  | .rendt p e => execRendt p e s P
  | .rendv p c => execRendv p c s P
  | .write t u => execWrite t u s P
  | .tick => execTick s P
  | .treset => execTreset s
  | .tread => execTread s
  | .rtick => execRtick s
  | .step => execStep s P

/-- One step of a core with parameters `P`. -/
def stepFor (s : State) (P : Params := standard) : Outcome State Fault Refusal :=
  match takeEvent s with
  | (.word w inputs, s) =>
    match decode w with
    | .ok i => execFor i (showInputs inputs s) P
    | .error _ => execIllegal (showInputs inputs s)
  | (.powerOn chain out, s) => .next (powerOn chain out s)

end Sys2Proof.Machine
end

