-- ==== Sys2Proof/Machine/Board.lean ====
section
/-! DEFINITION. What the board makes of the core's output: the external chain driven by TRACE, the frames OUT takes,
and what they mean on the display (spec/60_exceptions.md R300 to R302; spec/30_encoding.md R100, R103). Nothing here
acts on the core. -/

namespace Sys2Proof.Machine

/-- The pins and the chain after a list of pin writes (R300). -/
def replay (es : List PinEvent) (w : Wires) : Wires := es.foldl (fun w e => driveWire e w) w

/-- The pins and the chain at power-up: pins at 0, the chips' contents `chain` and `out` (R50, R320). -/
def wiresAtPowerUp (chain out : Frame) : Wires := ⟨false, false, false, chain, out⟩

/-- The values OUT takes while a list of pin writes happens, in order: one for each rising LATCH (R300). -/
def committed : List PinEvent → Wires → List Frame
  | [], _ => []
  | e :: es, w =>
    let after := driveWire e w
    if e = ⟨.latch, true⟩ ∧ w.latch = false then after.out :: committed es after else committed es after

/-- The bits DATA carries at the rising CLOCK edges of a list of pin writes, in the order they are shifted (R163). -/
def shifted : List PinEvent → Wires → List Bool
  | [], _ => []
  | e :: es, w =>
    let after := driveWire e w
    if e = ⟨.clock, true⟩ ∧ w.clock = false then after.data :: shifted es after else shifted es after

/-- The segment pattern in OUT (R302). -/
def segmentByte (out : Frame) : Byte := out.extractLsb' 8 8

/-- The select pattern in OUT (R302). -/
def selectByte (out : Frame) : Byte := out.extractLsb' 0 8

/-- The position a select byte drives: the one whose entry of SEL_ROM it is (R103, R302). The spec says it of the
default table; that with another SEL_ROM the board's positions follow that table, the lowest one where two entries are
equal, and that NUM_DIGITS does not matter, is the model's choice (log 20). -/
def drivenPosition (select : Byte) (P : Params := standard) : Option Position :=
  ([0, 1, 2, 3] : List Position).find? (fun p => selROM p P == select)

/-- Whether bit `i` of a segment pattern lights its segment: active-low (R100). Bit 7 is the decimal point. -/
def lit (pattern : Byte) (i : Fin 8) : Bool := !pattern.getLsbD i

/-- Whether a segment pattern shows the decimal point (R100). -/
def pointLit (pattern : Byte) : Bool := lit pattern 7

/-- The bytes the first and the second chip of the cascade hold, for a board wired in the order of CASCADE_ORDER (R75,
R164; spec/92_eei_decisions.md D12). -/
def chipBytes (out : Frame) (P : Params := standard) : Byte × Byte :=
  match P.cascadeOrder with
  | .segFirstChip => (segmentByte out, selectByte out)
  | .selFirstChip => (selectByte out, segmentByte out)

/-- What a viewer sees at a position: the segment pattern of the last frame that drove it, of the frames OUT took,
oldest first; none before its first write (R302, R323; log 18). With another SEL_ROM than the default a frame drives
every position whose entry its select byte is, which is the model's choice (log 20). -/
def shownAt (frames : List Frame) (p : Position) (P : Params := standard) : Option Byte :=
  (frames.reverse.find? (fun f => selectByte f == selROM p P)).map segmentByte

end Sys2Proof.Machine
end

