-- ==== Sys2Proof/Machine/Ports.lean ====
section
/-! DEFINITION. Who issues an operation and on which port it arrives (spec/00_scope.md R10; spec/30_encoding.md R112).
This classifies operations; it checks no access: every operation is available to every agent (spec/60_exceptions.md
R288). -/

namespace Sys2Proof.Machine

/-- The sources of operations (R10). -/
inductive Agent where
  | sequencer
  | secondSource
  | refreshSource
  /-- direct use of a part's contract; absent in a deployed system -/
  | harness
deriving DecidableEq, Repr

/-- The ports of a physical block (R112). -/
inductive Port where
  /-- strobe input `tick_1s` -/
  | tickOneSecond
  /-- strobe input `tick_refresh` -/
  | tickRefresh
  /-- no port: the sequencer issues it to itself -/
  | internal
  /-- the harness port `cmd[31:0]`, with RES and FLT as its results -/
  | command
deriving DecidableEq, Repr

/-- The port an operation arrives on (R112). -/
def portOf : Instr → Port
  | .tick => .tickOneSecond
  | .rtick => .tickRefresh
  | .step => .internal
  | .segenc _ | .selenc _ | .splitt _ | .splitv _ | .rendt _ _ | .rendv _ _ | .write _ _ | .treset | .tread => .command

/-- The agent that issues an operation in a deployed system, or the harness (R10). -/
def agentOf (i : Instr) : Agent :=
  match portOf i with
  | .tickOneSecond => .secondSource
  | .tickRefresh => .refreshSource
  | .internal => .sequencer
  | .command => .harness

end Sys2Proof.Machine
end

