-- ==== Sys2Proof/Safety.lean ====
section
/-! DEFINITION. What a safe run is, in the terms claims use: the halted state counts as a fault outcome
(spec/60_exceptions.md R282), a deployed run has no harness (spec/00_scope.md R10), and a fair run starves no agent
(spec/70_reset_and_hazards.md R346). -/

namespace Sys2Proof.Safety

open Sys2Proof.Machine

/-- Whether the core is halted: FLT is not 0 (R282). -/
def halted (s : State) : Bool := s.flt != 0

/-- A state as an outcome: "A model marks the halted state as a fault outcome that refutes any claim of correct
operation" (R282). -/
def verdict (s : State) : Host.Outcome State Fault Refusal :=
  match causeOf s.flt with
  | none => .next s
  | some cause => .fault (.halted cause)

/-- One step, a halted core afterwards counting as a fault outcome (R282). -/
def judgedStep (s : State) : Host.Outcome State Fault Refusal :=
  match step s with
  | .next t => verdict t
  | .fault r => .fault r
  | .refused r => .refused r

/-- One operation as an agent issues it, with what the input ports show meanwhile (R47, R113). -/
structure Issue where
  op : Instr
  inputs : Inputs := { }
deriving DecidableEq, Repr

/-- Operations run one after another, as one agent after another issues them (R81). -/
def execAll : List Issue → State → Host.Outcome State Fault Refusal
  | [], s => .next s
  | i :: is, s =>
    match exec i.op (showInputs i.inputs s) with
    | .next t => execAll is t
    | .fault r => .fault r
    | .refused r => .refused r

/-- A run of the machine. It never ends (R259). -/
def Run (r : Nat → State) : Prop := ∀ k, step (r k) = .next (r (k + 1))

/-- The operation that happens next, if the next event is a legal word. -/
def nextOp (s : State) : Option Instr :=
  match (takeEvent s).1 with
  | .word w _ =>
    match decode w with
    | .ok i => some i
    | .error _ => none
  | .powerOn _ _ => none

/-- Whether the next event is one a deployed system has: an operation of the sequencer or of an event source, or
power-on reset; the harness is absent (R10). -/
def DeployedNext (s : State) : Prop :=
  match (takeEvent s).1 with
  | .word _ _ => ∃ i, nextOp s = some i ∧ agentOf i ≠ .harness
  | .powerOn _ _ => True

/-- Weak fairness: STEP, TICK and RTICK are each issued infinitely often (R346). No ratio of their rates is assumed. -/
def WeaklyFair (r : Nat → State) : Prop :=
  ∀ i ∈ [Instr.step, Instr.tick, Instr.rtick], ∀ n, ∃ k, n ≤ k ∧ nextOp (r k) = some i

/-- A correct deployed run: fair, without harness, and never halted (R10, R282, R346). -/
def CorrectDeployedRun (r : Nat → State) : Prop :=
  Run r ∧ WeaklyFair r ∧ (∀ k, DeployedNext (r k)) ∧ ∀ k, halted (r k) = false

/-- Whether the next operation of the sequencer is a refresh: P3 with PR set, on a running core (R253). -/
def refreshDue (s : State) : Prop := s.flt = 0 ∧ s.ph = .p3 ∧ s.pr = true

/-- The invariant of the core: ES is below 6000 (R184); TRACE is a whole number of frames, since pin writes come only
from Serialize (R44, R161); the pins are where TRACE leaves them from the reset levels (R44, R50); and, with the link
there, CHAIN and OUT are what the external chain makes of TRACE from some power-up contents (R300). -/
structure CoreInv (s : State) : Prop where
  elapsed : s.es.toNat < 6000
  frames : ∃ fs : List Frame, s.trace = fs.flatMap frameEvents
  pins : ∀ chain out,
    let w := replay s.trace (wiresAtPowerUp chain out)
    w.data = s.data ∧ w.clock = s.clock ∧ w.latch = s.latch
  wires : s.link = true → ∃ chain out, replay s.trace (wiresAtPowerUp chain out) = wiresOf s

/-- The round-robin invariant of a deployed core: TRACE is the frames written since power-on, the n-th of them carries
the select byte of position n mod 4, and AD is the number of frames mod 4 (R231, R232). -/
structure RoundRobin (s : State) : Prop where
  elapsed : s.es.toNat < 6000
  running : s.flt = 0
  frames : ∃ fs : List Frame, s.trace = fs.flatMap frameEvents ∧ s.ad = BitVec.ofNat 2 fs.length ∧
    ∀ n (h : n < fs.length), selectByte fs[n] = selROM (BitVec.ofNat 2 n)

end Sys2Proof.Safety
end

