-- ==== Sys2Proof/Certificates/Slice0/Obligations.lean ====
section
/-! DEFINITION. The statements for the provers. Each formalises numbered rules of spec/, named in its docstring and in
OBLIGATIONS.json. An equality `exec i s = .next { s with … }` says completion, result and frame at once: every field not
named is unchanged. The core has no memory; its two tables are parameters at fixed values. A D<n> in a docstring is a decision the spec
marks as its own (spec/92_eei_decisions.md), a log <n> the model's (notes/assumptions/). -/

open Sys2Proof Sys2Proof.Machine Sys2Proof.Safety

/-! ## Reset and the step of the machine -/

/-- R50, R320: after power-on reset, whatever the state before it, every register and flag has its reset value, TRACE is
empty, CHAIN and OUT hold any draw, and the tables are the constants of R42 and R43; and State.reset has these values.
ES, AD and MODE are the source's values, the other registers' D10 and D11. The clauses on the other fields are the
model's choice: State.reset has the policy PER_CYCLE (log 4), the link (log 14), no event ready (log 1), no input offered
and no draw made (log 2), and the form of the draws is log 6; power-on keeps the policy, the link, the inputs, the draw
counter and the events after it (logs 1, 2, 4, 7, 14). -/
def Obligations.PowerOnResetGivesEveryRegisterItsResetValue : Prop :=
  (∀ (s : State) (chain out : Frame) (rest : List Event), s.events = .powerOn chain out :: rest →
    step s = .next
      { es := 0, ad := 0, mode := .timer, pr := false, vh := 0, ph := .p1, res := 0, flt := 0,
        data := false, clock := false, latch := false, trace := [], chain := chain, out := out,
        policy := s.policy, link := s.link, events := rest, inputs := s.inputs, draws := s.draws }) ∧
  (∃ chain out, State.reset =
      { es := 0, ad := 0, mode := .timer, pr := false, vh := 0, ph := .p1, res := 0, flt := 0,
        data := false, clock := false, latch := false, trace := [], chain := chain, out := out,
        policy := .perCycle, link := true, events := [], inputs := { }, draws := 0 }) ∧
  segTable = [0xC0, 0xF9, 0xA4, 0xB0, 0x99, 0x92, 0x82, 0xF8, 0x80, 0x90] ∧
  selTable = [0xF1, 0xF2, 0xF4, 0xF8]

/-- R9, R81, R105: a step is the next event, and when that is a word which decodes to an operation, the step runs that
operation in the state with the event taken and the input ports showing what came with it. Where no event is listed, a
free one happens (the model's form, log 1). The word the host's interface places is run likewise. -/
def Obligations.StepRunsTheDecodedOperation : Prop :=
  (∀ (s : State) (w : OpWord) (inputs : Inputs) (rest : List Event) (i : Instr),
    s.events = .word w inputs :: rest → decode w = .ok i →
      step s = exec i { s with events := rest, inputs := inputs }) ∧
  (∀ s : State, s.events = [] → step s = execEvent (Config.freeEvent s.draws) { s with draws := s.draws + 1 }) ∧
  (∀ (s : State) (nbits w : Nat) (i : Instr),
    decode (BitVec.ofNat 32 w) = .ok i → step (s.withFetchWord nbits w) = exec i s)

/-- R347, R259, R282: every step answers a next state, so every operation finishes in one step of the model: none blocks
and none is refused. That a word which raises a fault, and a word sent to a halted core, answer a next state too, is the
model's form of R282's stuck core, and not an end of correct operation (log 5). -/
def Obligations.EveryStepAnswersANextState : Prop :=
  (∀ s : State, ∃ t, step s = .next t) ∧ ∀ (i : Instr) (s : State), ∃ t, exec i s = .next t

/-- R282: when FLT is not 0, every word is accepted and has no effect: nothing but the event it came in is used up. The
core stays halted until power-on reset, which clears FLT; and the halted state counts as a fault outcome (D4). -/
def Obligations.HaltedCoreTakesNoEffectUntilPowerOn : Prop :=
  ∀ s : State, s.flt ≠ 0 →
    (∀ i, exec i s = .next s) ∧
    (∀ w inputs rest, s.events = .word w inputs :: rest →
      step s = .next { s with events := rest, inputs := inputs }) ∧
    (∀ chain out rest, s.events = .powerOn chain out :: rest → ∃ t, step s = .next t ∧ t.flt = 0) ∧
    ∃ cause, faultCode cause = s.flt ∧ verdict s = .fault (.halted cause)

/-! ## Encodings -/

/-- R106, R107: decoding the word the encoder writes for an operation gives that operation, for every operation and
every value of every operand. -/
def Obligations.DecodeOfEncodeIsTheOperation : Prop := ∀ i : Instr, decode (encode i) = .ok i

/-- R106, R107, R109: a word that decodes is the word of the operation it decodes to, so no bit of a legal word is
dropped and each operation has one word. -/
def Obligations.EncodeOfDecodedIsTheWord : Prop := ∀ (w : OpWord) (i : Instr), decode w = .ok i → encode i = w

/-- R108 (D2): the opcode map, row by row; a word selects a row exactly when (w AND mask) = match, at most one row
matches any word, and the word decodes by the row it matches. -/
def Obligations.OpcodeMapIsTheTableAndRowsDoNotOverlap : Prop :=
  opRows.map (fun r => (r.mnemonic, r.pattern, r.mask)) =
    [("SEGENC", 0x10000000, 0xFFFFFFF0), ("SELENC", 0x20000000, 0xFFFFFFFC), ("SPLITT", 0x30000000, 0xFFFFE000),
     ("SPLITV", 0x40000000, 0xFFFF0000), ("RENDT", 0x50000000, 0xFCFFE000), ("RENDV", 0x60000000, 0xFCFF0000),
     ("WRITE", 0x70000000, 0xFFFF0000), ("TICK", 0x80000000, 0xFFFFFFFF), ("TRESET", 0x90000000, 0xFFFFFFFF),
     ("TREAD", 0xA0000000, 0xFFFFFFFF), ("RTICK", 0xB0000000, 0xFFFFFFFF), ("STEP", 0xC0000000, 0xFFFFFFFF)] ∧
  ∀ w : OpWord,
    (opRows.filter (fun r => w &&& r.mask == r.pattern)).length ≤ 1 ∧
    ∀ r ∈ opRows, w &&& r.mask = r.pattern → decode w = .ok (r.fields w)

/-- R109, R110 (D16): the illegal words are exactly those whose OP is 0x0, 0xD, 0xE or 0xF and those with a defined OP
and a 1 in a reserved bit of its format; each raises Fault(ILLEGAL_OP) on a running core and writes nothing else. -/
def Obligations.IllegalWordsAreTheReservedOnesAndRaiseIllegalOp : Prop :=
  (∀ w : OpWord, (∃ why, decode w = .error why) ↔
    (w >>> 28 = 0x0 ∨ w >>> 28 = 0xD ∨ w >>> 28 = 0xE ∨ w >>> 28 = 0xF ∨
     (w >>> 28 = 0x1 ∧ w &&& 0x0FFFFFF0 ≠ 0) ∨ (w >>> 28 = 0x2 ∧ w &&& 0x0FFFFFFC ≠ 0) ∨
     (w >>> 28 = 0x3 ∧ w &&& 0x0FFFE000 ≠ 0) ∨ (w >>> 28 = 0x4 ∧ w &&& 0x0FFF0000 ≠ 0) ∨
     (w >>> 28 = 0x5 ∧ w &&& 0x0CFFE000 ≠ 0) ∨ (w >>> 28 = 0x6 ∧ w &&& 0x0CFF0000 ≠ 0) ∨
     (w >>> 28 = 0x7 ∧ w &&& 0x0FFF0000 ≠ 0) ∨
     ((w >>> 28 = 0x8 ∨ w >>> 28 = 0x9 ∨ w >>> 28 = 0xA ∨ w >>> 28 = 0xB ∨ w >>> 28 = 0xC) ∧
       w &&& 0x0FFFFFFF ≠ 0))) ∧
  ∀ (s : State) (w : OpWord) (inputs : Inputs) (rest : List Event) (why : DecodeReject),
    s.flt = 0 → s.events = .word w inputs :: rest → decode w = .error why →
      step s = .next { s with events := rest, inputs := inputs, flt := 1 }

/-- R106, R107: some words written out from the patterns decode to the operations they stand for, one of each format. -/
def Obligations.SampleWordsDecodeToTheirOperations : Prop :=
  decode 0b00010000000000000000000000000010#32 = .ok (.segenc 2) ∧
  decode 0b00100000000000000000000000000011#32 = .ok (.selenc 3) ∧
  decode 0b00110000000000000001011101101111#32 = .ok (.splitt 5999) ∧
  decode 0b01000000000000001000000000000000#32 = .ok (.splitv 32768) ∧
  decode 0b01010001000000000000000001111101#32 = .ok (.rendt 1 125) ∧
  decode 0b01100011000000001111111111111111#32 = .ok (.rendv 3 65535) ∧
  decode 0b01110000000000001100000011110001#32 = .ok (.write 0xC0 0xF1) ∧
  decode 0b10000000000000000000000000000000#32 = .ok .tick ∧
  decode 0b10010000000000000000000000000000#32 = .ok .treset ∧
  decode 0b10100000000000000000000000000000#32 = .ok .tread ∧
  decode 0b10110000000000000000000000000000#32 = .ok .rtick ∧
  decode 0b11000000000000000000000000000000#32 = .ok .step

/-- R113 (D17): every operation has an assembler line, which assembles to it; and a line assembles exactly when each of
its operands fits its field. -/
def Obligations.AssemblerAcceptsExactlyOperandsThatFit : Prop :=
  (∀ i : Instr, i.toAsm.assemble = some i) ∧
  (∀ d, (∃ i, (AsmOp.segenc d).assemble = some i) ↔ d ≤ 15) ∧
  (∀ p, (∃ i, (AsmOp.selenc p).assemble = some i) ↔ p ≤ 3) ∧
  (∀ e, (∃ i, (AsmOp.splitt e).assemble = some i) ↔ e ≤ 8191) ∧
  (∀ c, (∃ i, (AsmOp.splitv c).assemble = some i) ↔ c ≤ 65535) ∧
  (∀ p e, (∃ i, (AsmOp.rendt p e).assemble = some i) ↔ p ≤ 3 ∧ e ≤ 8191) ∧
  (∀ p c, (∃ i, (AsmOp.rendv p c).assemble = some i) ↔ p ≤ 3 ∧ c ≤ 65535) ∧
  (∀ s t, (∃ i, (AsmOp.write s t).assemble = some i) ↔ s ≤ 255 ∧ t ≤ 255)

/-- R114 (D17): the pseudo-operations stand for the operations of their expansions, TICKS for every count. -/
def Obligations.PseudoOperationsStandForTheirExpansions : Prop :=
  AsmLine.iter.assemble = some [.step, .step, .step] ∧
  AsmLine.refresh.assemble = some [.rtick, .step, .step, .step] ∧
  (∀ n, (AsmLine.ticks n).assemble = some (List.replicate n .tick)) ∧
  ∀ (p : Position) (e : Elapsed) (c : Code),
    (AsmLine.render 0 p.toNat e.toNat c.toNat).assemble = some [.rendt p e] ∧
    (AsmLine.render 1 p.toNat e.toNat c.toNat).assemble = some [.rendv p c]

/-! ## Segment encoder -/

/-- R140 (the fault D21): SEGENC d writes the table's byte for the digit, zero-extended, into RES and changes nothing
else; for d from 10 to 15 it raises Fault(DIGIT_RANGE), FLT 2, and writes nothing else. -/
def Obligations.SegencReadsTheTableOrFaultsOutOfRange : Prop :=
  ∀ (d : Digit) (s : State), s.flt = 0 →
    (∀ b, [0xC0#8, 0xF9#8, 0xA4#8, 0xB0#8, 0x99#8, 0x92#8, 0x82#8, 0xF8#8, 0x80#8, 0x90#8][d.toNat]? = some b →
      exec (.segenc d) s = .next { s with res := b.setWidth 32 }) ∧
    (10 ≤ d.toNat → exec (.segenc d) s = .next { s with flt := 2 })

/-- R141: the word of SELENC p is 0x20000000 with p in bits 1:0, bit 2 being reserved; SELENC p writes the position's
select byte, zero-extended, into RES and changes nothing else, for every position. -/
def Obligations.SelencReadsTheTable : Prop :=
  decode 0x20000004 = .error .reservedBit ∧
  ∀ p : Position,
    decode (0x20000000#32 ||| p.setWidth 32) = .ok (.selenc p) ∧
    ∀ (s : State) (b : Byte), s.flt = 0 →
      [0xF1#8, 0xF2#8, 0xF4#8, 0xF8#8][p.toNat]? = some b →
        exec (.selenc p) s = .next { s with res := b.setWidth 32 }

/-- R142: (a) SegROM of a digit below ten is the table's value at that index, (b) distinct digits have distinct values,
(c) SelROM of a position is its constant, and (d) a lookup gives the same value at every operation, whatever the state. -/
def Obligations.TableLookupLaws : Prop :=
  (∀ (d : Digit) (b : Byte),
    [0xC0#8, 0xF9#8, 0xA4#8, 0xB0#8, 0x99#8, 0x92#8, 0x82#8, 0xF8#8, 0x80#8, 0x90#8][d.toNat]? = some b →
      segROM d = .ok b) ∧
  (∀ (d e : Digit) (b : Byte), segROM d = .ok b → segROM e = .ok b → d = e) ∧
  (∀ (p : Position) (b : Byte), [0xF1#8, 0xF2#8, 0xF4#8, 0xF8#8][p.toNat]? = some b → selROM p = b) ∧
  ∀ s s' : State, s.flt = 0 → s'.flt = 0 →
    (∀ (d : Digit) (t t' : State), d.toNat < 10 → exec (.segenc d) s = .next t → exec (.segenc d) s' = .next t' →
      t.res = t'.res) ∧
    ∀ (p : Position) (t t' : State), exec (.selenc p) s = .next t → exec (.selenc p) s' = .next t' → t.res = t'.res

/-- R43, R103: of a position's select byte, bit p of the low nibble is 1 and its other bits are 0, and the high nibble
is all ones; so the byte tells the position, the one the board drives (R302). -/
def Obligations.SelectByteDrivesExactlyItsPosition : Prop :=
  ∀ p : Position,
    (∀ i < 4, (selROM p).getLsbD i = decide (i = p.toNat)) ∧
    (∀ i, 4 ≤ i → i < 8 → (selROM p).getLsbD i = true) ∧
    drivenPosition (selROM p) = some p

/-! ## Decimal-digit extractor and renderer -/

/-- R200 (the fault D5, the layout D3): SPLITT e for e below 6000 completes and writes RES alone, whose fields are the
seconds, the minutes and the four decimal digits, the other bits 0; for e from 6000 on it raises Fault(OPERAND_RANGE),
FLT 3, and writes nothing else. -/
def Obligations.SplittWritesMinutesSecondsAndDigits : Prop :=
  ∀ (e : Elapsed) (s : State), s.flt = 0 →
    (e.toNat < 6000 → ∃ r : OpWord, exec (.splitt e) s = .next { s with res := r } ∧
      (r.extractLsb' 30 2).toNat = 0 ∧ (r.extractLsb' 24 6).toNat = e.toNat % 60 ∧
      (r.extractLsb' 23 1).toNat = 0 ∧ (r.extractLsb' 16 7).toNat = e.toNat / 60 ∧
      (r.extractLsb' 12 4).toNat = e.toNat / 60 / 10 ∧ (r.extractLsb' 8 4).toNat = e.toNat / 60 % 10 ∧
      (r.extractLsb' 4 4).toNat = e.toNat % 60 / 10 ∧ (r.extractLsb' 0 4).toNat = e.toNat % 60 % 10) ∧
    (6000 ≤ e.toNat → exec (.splitt e) s = .next { s with flt := 3 })

/-- R201 (the fault D5, its code 3 D4; log 8): the word of RENDT p, e is 0x50000000 with p in bits 25:24 and e in bits
12:0; RENDT p, e for e below 6000 writes the segment byte of the position's digit into RES, with the decimal point
forced on at position 1, and changes nothing else; for e from 6000 on it raises Fault(OPERAND_RANGE), FLT 3 by R280 and
R281, and writes nothing else. -/
def Obligations.RendtWritesTheTimerDigit : Prop :=
  ∀ (p : Position) (e : Elapsed),
    decode (0x50000000#32 ||| p.setWidth 32 <<< 24 ||| e.setWidth 32) = .ok (.rendt p e) ∧
    ∀ s : State, s.flt = 0 →
      (e.toNat < 6000 → ∃ b : Byte,
        b = (if p = 0 then segTable.getD (e.toNat / 60 / 10) 0
          else if p = 1 then segTable.getD (e.toNat / 60 % 10) 0 &&& 0x7F
          else if p = 2 then segTable.getD (e.toNat % 60 / 10) 0
          else segTable.getD (e.toNat % 60 % 10) 0) ∧
        exec (.rendt p e) s = .next { s with res := b.setWidth 32 }) ∧
      (6000 ≤ e.toNat → exec (.rendt p e) s = .next { s with flt := 3 })

/-- R202 (D6): the centivolts of a code are (c * 330) div 65535 in exact arithmetic: 0 at code 0, 330 at full scale,
never decreasing, and every value from 0 to 330 is taken. -/
def Obligations.CentivoltConversionLaws : Prop :=
  (∀ c : Code, centivolts c = c.toNat * 330 / 65535 ∧ centivolts c ≤ 330) ∧
  centivolts 0 = 0 ∧ centivolts 65535 = 330 ∧
  (∀ c c' : Code, c.toNat ≤ c'.toNat → centivolts c ≤ centivolts c') ∧
  (∀ v ≤ 330, ∃ c : Code, centivolts c = v)

/-- R203 (the layout D3): SPLITV c completes for every code and writes RES alone, whose fields are the centivolts and
the three digits, the other bits 0. -/
def Obligations.SplitvWritesCentivoltsAndDigits : Prop :=
  ∀ (c : Code) (s : State) (v : Nat), s.flt = 0 → v = c.toNat * 330 / 65535 →
    ∃ r : OpWord, exec (.splitv c) s = .next { s with res := r } ∧
      (r.extractLsb' 25 7).toNat = 0 ∧ (r.extractLsb' 16 9).toNat = v ∧ (r.extractLsb' 12 4).toNat = 0 ∧
      (r.extractLsb' 8 4).toNat = v / 100 ∧ (r.extractLsb' 4 4).toNat = v % 100 / 10 ∧
      (r.extractLsb' 0 4).toNat = v % 100 % 10

/-- R204, R202 (exact centivolts D6; log 8): the word of RENDV p, c is 0x60000000 with p in bits 25:24 and c in bits
15:0; RENDV p, c writes the segment byte of the position's voltmeter digit, of the centivolts (c * 330) div 65535, into
RES, with the decimal point forced on at position 0 and a blank at position 3, and changes nothing else, for every
code. -/
def Obligations.RendvWritesTheVoltmeterDigit : Prop :=
  ∀ (p : Position) (c : Code),
    decode (0x60000000#32 ||| p.setWidth 32 <<< 24 ||| c.setWidth 32) = .ok (.rendv p c) ∧
    ∀ (s : State) (v : Nat), s.flt = 0 → v = c.toNat * 330 / 65535 →
      ∃ b : Byte,
        b = (if p = 0 then segTable.getD (v / 100) 0 &&& 0x7F
          else if p = 1 then segTable.getD (v % 100 / 10) 0
          else if p = 2 then segTable.getD (v % 100 % 10) 0
          else 0xFF) ∧
        exec (.rendv p c) s = .next { s with res := b.setWidth 32 }

/-- R205, R206: rendering never faults for elapsed seconds below 6000, and a Timer render does not depend on the code,
nor a Voltmeter render on the elapsed seconds. -/
def Obligations.RenderDigitIsDefinedAndReadsOnlyItsMode : Prop :=
  ∀ (p : Position) (e e' : Elapsed) (c c' : Code),
    (e.toNat < 6000 → ∃ b, renderDigit .timer p e c = .ok b) ∧ (∃ b, renderDigit .voltmeter p e c = .ok b) ∧
    renderDigit .timer p e c = renderDigit .timer p e c' ∧
    renderDigit .voltmeter p e c = renderDigit .voltmeter p e' c

/-- R100, R101, R201, R204: in Timer mode only position 1 shows the decimal point, in Voltmeter mode only position 0. -/
def Obligations.DecimalPointShowsOnlyAtItsPosition : Prop :=
  ∀ (p : Position) (e : Elapsed) (c : Code) (b : Byte),
    (renderDigit .timer p e c = .ok b → (pointLit b = true ↔ p = 1)) ∧
    (renderDigit .voltmeter p e c = .ok b → (pointLit b = true ↔ p = 0))

/-! ## Serializer and the external chain -/

/-- R160, R161, R163, R165, R300, R301 (D11, D12; log 8): the word of WRITE s, t is 0x70000000 with s in bits 15:8 and t
in bits 7:0. It completes for every two bytes: DATA ends at t[0], CLOCK and LATCH at 1, and TRACE grows by LATCH 0,
then DATA F[i], CLOCK 0, CLOCK 1 for i from 15 down to 0, then LATCH 1: 50 events. With the link to the chips there,
CHAIN and OUT hold s ++ t; without it they hold free values, one pair drawn for each event (the model's form, log 14).
Nothing else changes. -/
def Obligations.WriteSendsTheFrameOnThePins : Prop :=
  ∀ a b : Byte,
    decode (0x70000000#32 ||| a.setWidth 32 <<< 8 ||| b.setWidth 32) = .ok (.write a b) ∧
    ∀ s : State, s.flt = 0 → ∃ sent : List PinEvent,
      sent = [⟨.latch, false⟩] ++
        [15, 14, 13, 12, 11, 10, 9, 8, 7, 6, 5, 4, 3, 2, 1, 0].flatMap (fun i =>
          [⟨.data, (a ++ b : BitVec 16).getLsbD i⟩, ⟨.clock, false⟩, ⟨.clock, true⟩]) ++ [⟨.latch, true⟩] ∧
      sent.length = 50 ∧
      (s.link = true → exec (.write a b) s = .next
        { s with data := b.getLsbD 0, clock := true, latch := true, trace := s.trace ++ sent,
                 chain := a ++ b, out := a ++ b }) ∧
      (s.link = false → exec (.write a b) s = .next
        { s with data := b.getLsbD 0, clock := true, latch := true, trace := s.trace ++ sent,
                 chain := Config.freeChain (s.draws + 49), out := Config.freeOut (s.draws + 49),
                 draws := s.draws + 50 })

/-- R165, R162: the core's own behaviour is the same with or without the link to the shift registers. On the same state
but for the link, every operation answers the same, TRACE included, but for CHAIN and OUT, which are any value (I3), and
the model's draw counter (log 14). -/
def Obligations.CoreBehavesTheSameWithoutTheLink : Prop :=
  ∀ (i : Instr) (s t : State), s.link = true → exec i s = .next t →
    ∃ chain out draws, exec i { s with link := false } =
      .next { t with link := false, chain := chain, out := out, draws := draws }

/-- R163, R301: whatever the pins and the chips hold before, a frame makes 16 rising CLOCK edges that shift in its bits,
most significant first, and one rising LATCH edge, which commits exactly that frame; afterwards CHAIN and OUT are the
frame, DATA is its bit 0, CLOCK and LATCH are 1. -/
def Obligations.FrameShiftsSixteenBitsAndCommitsOnce : Prop :=
  ∀ (f : Frame) (w : Wires),
    shifted (frameEvents f) w =
      [15, 14, 13, 12, 11, 10, 9, 8, 7, 6, 5, 4, 3, 2, 1, 0].map (fun i => f.getLsbD i) ∧
    committed (frameEvents f) w = [f] ∧
    replay (frameEvents f) w = { data := f.getLsbD 0, clock := true, latch := true, chain := f, out := f }

/-- R300: until the last event of a frame, OUT keeps its old value. -/
def Obligations.OutputsStayFrozenUntilTheLatchRises : Prop :=
  ∀ (f : Frame) (w : Wires) (n : Nat), n < 50 → (replay ((frameEvents f).take n) w).out = w.out

/-- R44, R300: one pin write sets its pin register and is appended to TRACE; with the link there, CLOCK rising shifts
DATA into CHAIN[0] and moves the other bits up, LATCH rising copies CHAIN to OUT, and no other pin write touches
them. That CLOCK rising shifts also while LATCH is high, which I4 and N22 leave open and no operation of the core does,
is the model's reading of R300 as written (log 13). -/
def Obligations.PinWriteDrivesTheChainOnRisingEdges : Prop :=
  ∀ s : State, s.link = true →
    (∀ l, emit ⟨.data, l⟩ s = { s with data := l, trace := s.trace ++ [⟨.data, l⟩] }) ∧
    (∀ l, (l = false ∨ s.clock = true) →
      emit ⟨.clock, l⟩ s = { s with clock := l, trace := s.trace ++ [⟨.clock, l⟩] }) ∧
    (s.clock = false → ∃ chain : Frame,
      emit ⟨.clock, true⟩ s = { s with clock := true, chain := chain, trace := s.trace ++ [⟨.clock, true⟩] } ∧
      chain.getLsbD 0 = s.data ∧ ∀ i < 15, chain.getLsbD (i + 1) = s.chain.getLsbD i) ∧
    (∀ l, (l = false ∨ s.latch = true) →
      emit ⟨.latch, l⟩ s = { s with latch := l, trace := s.trace ++ [⟨.latch, l⟩] }) ∧
    (s.latch = false →
      emit ⟨.latch, true⟩ s = { s with latch := true, out := s.chain, trace := s.trace ++ [⟨.latch, true⟩] })

/-! ## Elapsed-seconds counter -/

/-- R180: the word 0x80000000 is TICK, which adds one second, 5999 wrapping to 0, and changes nothing else. -/
def Obligations.TickCountsSecondsModuloSixThousand : Prop :=
  decode 0x80000000 = .ok .tick ∧
  ∀ s : State, s.flt = 0 →
    (s.es.toNat = 5999 → exec .tick s = .next { s with es := 0 }) ∧
    (s.es.toNat < 5999 → ∃ es : Elapsed, es.toNat = s.es.toNat + 1 ∧ exec .tick s = .next { s with es := es })

/-- R181: from any ES in range, 6000 TICKs in a row give back the state they started from. -/
def Obligations.SixThousandTicksReturnToTheStart : Prop :=
  ∀ s : State, s.flt = 0 → s.es.toNat < 6000 →
    execAll (List.replicate 6000 { op := .tick, inputs := s.inputs }) s = .next s

/-- R182: the word 0x90000000 is TRESET, which sets ES to 0 and changes nothing else, and a TICK after it gives ES = 1,
whatever ES was. -/
def Obligations.TresetClearsTheCounterAlone : Prop :=
  decode 0x90000000 = .ok .treset ∧
  ∀ s : State, s.flt = 0 →
    exec .treset s = .next { s with es := 0 } ∧
    execAll [{ op := .treset, inputs := s.inputs }, { op := .tick, inputs := s.inputs }] s = .next { s with es := 1 }

/-- R183: the word 0xA0000000 is TREAD, which writes ES, zero-extended, into RES, so that RES is below 6000 when ES is,
and changes nothing else. -/
def Obligations.TreadCopiesTheCounterToTheResult : Prop :=
  decode 0xA0000000 = .ok .tread ∧
  ∀ s : State, s.flt = 0 →
    ∃ r : OpWord, r.toNat = s.es.toNat ∧ (s.es.toNat < 6000 → r.toNat < 6000) ∧
      exec .tread s = .next { s with res := r }

/-- R82: TICK then a reset leaves ES = 0, a reset then TICK leaves ES = 1, for TRESET and for the reset button at P1
alike. -/
def Obligations.LastOfTickAndResetDecidesTheCounter : Prop :=
  ∀ (s : State) (press : Inputs), s.flt = 0 → press.resetN = some false →
    execAll [{ op := .tick }, { op := .treset }] s = .next { s with es := 0, inputs := { } } ∧
    execAll [{ op := .treset }, { op := .tick }] s = .next { s with es := 1, inputs := { } } ∧
    (s.ph = .p1 →
      execAll [{ op := .tick }, { op := .step, inputs := press }] s =
        .next { s with es := 0, ph := .p2, inputs := press } ∧
      execAll [{ op := .step, inputs := press }, { op := .tick }] s =
        .next { s with es := 1, ph := .p2, inputs := { } })

/-! ## Multiplexer scheduler -/

/-- R230: the word 0xB0000000 is RTICK, which sets PR and changes nothing else, whether PR was set or not. -/
def Obligations.RtickSetsPending : Prop :=
  decode 0xB0000000 = .ok .rtick ∧
  ∀ s : State, s.flt = 0 → exec .rtick s = .next { s with pr := true }

/-- R36: any number of RTICKs in a row, one or more, does what one does: they coalesce. -/
def Obligations.RefreshTicksCoalesce : Prop :=
  ∀ (s : State) (n : Nat), s.flt = 0 →
    execAll (List.replicate (n + 1) { op := .rtick, inputs := s.inputs }) s = exec .rtick s

/-- R83: an RTICK before P3 is consumed by it, one after P3 leaves PR = 1 for the next. -/
def Obligations.RefreshTickIsConsumedOrKept : Prop :=
  ∀ s : State, s.flt = 0 → s.es.toNat < 6000 → s.ph = .p3 →
    (∃ t, execAll [{ op := .rtick }, { op := .step }] s = .next t ∧ t.pr = false ∧ t.ad = s.ad + 1 ∧ t.ph = .p1) ∧
    (∃ t, execAll [{ op := .step }, { op := .rtick }] s = .next t ∧ t.pr = true ∧ t.ph = .p1 ∧
      t.ad = if s.pr then s.ad + 1 else s.ad)

/-! ## Control sequencer -/

/-- R251: STEP in phase P1 samples RESET_N: pressed (0) clears ES, released (1) leaves it; PH goes to P2 and nothing
else changes. -/
def Obligations.StepAtP1ServesTheResetButton : Prop :=
  ∀ s : State, s.flt = 0 → s.ph = .p1 →
    (s.inputs.resetN = some false → exec .step s = .next { s with es := 0, ph := .p2 }) ∧
    (s.inputs.resetN = some true → exec .step s = .next { s with ph := .p2 })

/-- R252: STEP in phase P2 samples MODE_N: pressed (0) selects Voltmeter, released (1) Timer, whatever MODE was; PH goes
to P3 and nothing else changes. -/
def Obligations.StepAtP2FollowsTheModeButton : Prop :=
  ∀ s : State, s.flt = 0 → s.ph = .p2 →
    (s.inputs.modeN = some false → exec .step s = .next { s with mode := .voltmeter, ph := .p3 }) ∧
    (s.inputs.modeN = some true → exec .step s = .next { s with mode := .timer, ph := .p3 })

/-- R48 (D13), R251, R252: where the environment offers nothing on a button's port, the level sampled there is a free
value, which decides ES or MODE as an offered one does and uses up one number of the draw counter. The counter is the
model's (log 2). -/
def Obligations.UnofferedButtonLevelsAreFreeDraws : Prop :=
  ∀ s : State, s.flt = 0 →
    (s.ph = .p1 → s.inputs.resetN = none → exec .step s = .next
      { s with es := if Config.freeResetN s.draws = false then 0 else s.es, ph := .p2, draws := s.draws + 1 }) ∧
    (s.ph = .p2 → s.inputs.modeN = none → exec .step s = .next
      { s with mode := if Config.freeModeN s.draws = false then .voltmeter else .timer, ph := .p3,
               draws := s.draws + 1 })

/-- R253: STEP in phase P3 with no refresh pending writes only PH, and samples nothing. -/
def Obligations.StepAtP3WithoutPendingOnlyMovesOn : Prop :=
  ∀ s : State, s.flt = 0 → s.ph = .p3 → s.pr = false → exec .step s = .next { s with ph := .p1 }

/-- R253 (the sample condition D7): STEP in phase P3 with a refresh pending clears PR, samples POT into VH when the
policy is PER_DIGIT or AD is 0 and holds VH otherwise, renders position AD in the current mode, sends that segment byte
with the select byte of the position before the advance, advances AD by one mod 4 and goes to P1. RES, ES, MODE and FLT
are unchanged. Without the link to the chips, CHAIN and OUT alone differ (R165, log 14). -/
def Obligations.StepAtP3RefreshesTheActiveDigit : Prop :=
  ∀ (s : State) (code : Code) (seg sel : Byte),
    s.flt = 0 → s.es.toNat < 6000 → s.ph = .p3 → s.pr = true →
    [0xF1#8, 0xF2#8, 0xF4#8, 0xF8#8][s.ad.toNat]? = some sel →
    (((s.policy = .perDigit ∨ s.ad = 0) ∧ s.inputs.pot = some code) ∨
      (¬ (s.policy = .perDigit ∨ s.ad = 0) ∧ code = s.vh)) →
    renderDigit s.mode s.ad s.es code = .ok seg →
    exec .step s = .next
      { s with pr := false, vh := code, data := sel.getLsbD 0, clock := true, latch := true,
               trace := s.trace ++ frameEvents (seg ++ sel),
               chain := if s.link then seg ++ sel else Config.freeChain (s.draws + 49),
               out := if s.link then seg ++ sel else Config.freeOut (s.draws + 49),
               draws := if s.link then s.draws else s.draws + 50, ad := s.ad + 1, ph := .p1 }

/-- R48 (D13), R253 (D7): a refresh that samples a POT on which the environment offers nothing takes a free value, which
uses up one number of the draw counter and is what the refresh renders and sends. The counter is the model's (log 2,
and log 14 for the 50 draws of a frame without the link). -/
def Obligations.RefreshTakesAFreeDrawOfPot : Prop :=
  ∀ s : State, s.flt = 0 → s.es.toNat < 6000 → s.ph = .p3 → s.pr = true →
    (s.policy = .perDigit ∨ s.ad = 0) → s.inputs.pot = none →
    ∃ t, exec .step s = .next t ∧ t.vh = Config.freePot s.draws ∧
      t.draws = (if s.link then s.draws + 1 else s.draws + 51) ∧
      ∃ seg, renderDigit s.mode s.ad s.es (Config.freePot s.draws) = .ok seg ∧
        t.trace = s.trace ++ frameEvents (seg ++ selROM s.ad) ∧ (s.link = true → segmentByte t.out = seg)

/-- R254, R255: on a running core with ES in range, STEP never faults and moves PH on, P1 to P2 to P3 to P1; no other
operation writes PH. -/
def Obligations.StepNeverFaultsAndCyclesThePhase : Prop :=
  (∀ s : State, s.flt = 0 → s.es.toNat < 6000 →
    ∃ t, exec .step s = .next t ∧ t.flt = 0 ∧
      t.ph = match s.ph with | .p1 => .p2 | .p2 => .p3 | .p3 => .p1) ∧
  ∀ (i : Instr) (s t : State), i ≠ .step → exec i s = .next t → t.ph = s.ph

/-- R253, R256: under PER_CYCLE, only power-on reset and a refresh of position 0 change VH, so the code sampled there is
the one every voltmeter digit of its cycle is rendered from. -/
def Obligations.HeldVoltageChangesOnlyAtPositionZero : Prop :=
  ∀ s t : State, s.policy = .perCycle → step s = .next t → t.vh ≠ s.vh →
    (∃ chain out, (takeEvent s).1 = .powerOn chain out) ∨ (refreshDue s ∧ s.ad = 0 ∧ nextOp s = some .step)

/-- R231, R232: four refreshes, each an RTICK and one pass of the sequencer from P1, whatever the inputs and whatever
the position they start from, write four frames, one for each position in turn, and leave AD where it was. -/
def Obligations.FourRefreshesVisitEveryPositionOnce : Prop :=
  ∀ (s : State) (i1 i2 i3 i4 i5 i6 i7 i8 i9 i10 i11 i12 : Inputs),
    s.flt = 0 → s.es.toNat < 6000 → s.ph = .p1 →
    ∃ (t : State) (g0 g1 g2 g3 : Byte),
      execAll
        [{ op := .rtick }, { op := .step, inputs := i1 }, { op := .step, inputs := i2 }, { op := .step, inputs := i3 },
         { op := .rtick }, { op := .step, inputs := i4 }, { op := .step, inputs := i5 }, { op := .step, inputs := i6 },
         { op := .rtick }, { op := .step, inputs := i7 }, { op := .step, inputs := i8 }, { op := .step, inputs := i9 },
         { op := .rtick }, { op := .step, inputs := i10 }, { op := .step, inputs := i11 },
         { op := .step, inputs := i12 }] s = .next t ∧
      t.ad = s.ad ∧ t.ph = .p1 ∧ t.pr = false ∧ t.flt = 0 ∧
      t.trace = s.trace ++ frameEvents (g0 ++ selROM s.ad) ++ frameEvents (g1 ++ selROM (s.ad + 1)) ++
        frameEvents (g2 ++ selROM (s.ad + 2)) ++ frameEvents (g3 ++ selROM (s.ad + 3))

/-- R201, R253, R302: one cycle of a sequencer with the buttons released, from position 0, shows the elapsed time: the
pin writes it sends make a board with the chips show the tens of minutes, the minutes with the point, the tens of
seconds and the seconds of ES. What a viewer sees at a position (shownAt) is the model's reading of R302 (log 18). -/
def Obligations.FullCycleShowsTheElapsedTime : Prop :=
  ∀ (s : State) (released : Inputs), s.flt = 0 → s.es.toNat < 6000 → s.ph = .p1 → s.ad = 0 →
    released.resetN = some true → released.modeN = some true →
    ∃ (t : State) (sent : List PinEvent),
      execAll ((List.replicate 4
        [{ op := .rtick }, { op := .step, inputs := released }, { op := .step, inputs := released },
         { op := .step, inputs := released }]).flatten) s = .next t ∧
      t.trace = s.trace ++ sent ∧ t.es = s.es ∧ t.ad = 0 ∧ t.mode = .timer ∧
      shownAt (committed sent (wiresOf s)) 0 = some (segTable.getD (s.es.toNat / 60 / 10) 0) ∧
      shownAt (committed sent (wiresOf s)) 1 = some (segTable.getD (s.es.toNat / 60 % 10) 0 &&& 0x7F) ∧
      shownAt (committed sent (wiresOf s)) 2 = some (segTable.getD (s.es.toNat % 60 / 10) 0) ∧
      shownAt (committed sent (wiresOf s)) 3 = some (segTable.getD (s.es.toNat % 60 % 10) 0)

/-- R204, R253, R256, R302: under PER_CYCLE, one cycle with the mode button held shows the voltage sampled at its
position 0, whatever POT shows at each of the other three refreshes. What a viewer sees at a position (shownAt) is the
model's reading of R302 (log 18). -/
def Obligations.FullCycleShowsOneVoltageSample : Prop :=
  ∀ (s : State) (first second third fourth : Inputs) (code : Code) (v : Nat),
    s.flt = 0 → s.es.toNat < 6000 → s.ph = .p1 → s.ad = 0 → s.policy = .perCycle →
    first.modeN = some false → first.pot = some code → second.modeN = some false →
    third.modeN = some false → fourth.modeN = some false → v = code.toNat * 330 / 65535 →
    ∃ (t : State) (sent : List PinEvent),
      execAll
        ([first, second, third, fourth].flatMap (fun shown =>
          [{ op := .rtick }, { op := .step, inputs := shown }, { op := .step, inputs := shown },
           { op := .step, inputs := shown }])) s = .next t ∧
      t.trace = s.trace ++ sent ∧ t.vh = code ∧ t.ad = 0 ∧ t.mode = .voltmeter ∧
      shownAt (committed sent (wiresOf s)) 0 = some (segTable.getD (v / 100) 0 &&& 0x7F) ∧
      shownAt (committed sent (wiresOf s)) 1 = some (segTable.getD (v % 100 / 10) 0) ∧
      shownAt (committed sent (wiresOf s)) 2 = some (segTable.getD (v % 100 % 10) 0) ∧
      shownAt (committed sent (wiresOf s)) 3 = some 0xFF#8

/-! ## Parameters -/

/-- R7, R46: the parameters of the core have the listed defaults, and the core with the default parameters is the
machine, in which they are fixed. SAMPLE_POLICY is a field of State (log 4), and CASCADE_ORDER is OPEN, a free value
(log 9). -/
def Obligations.ParametersHaveTheirListedDefaults : Prop :=
  standard =
    { esWidth := 13, esModulus := 6000, numDigits := 4,
      segRom := [0xC0, 0xF9, 0xA4, 0xB0, 0x99, 0x92, 0x82, 0xF8, 0x80, 0x90], selRom := [0xF1, 0xF2, 0xF4, 0xF8],
      dpMask := 0x7F, blank := 0xFF, vrefCv := 330, adcBits := 16, adcFullScale := 65535,
      cascadeOrder := Config.cascadeOrder, tickPeriodMs := 1000, refreshPeriodMs := 2, frameBits := 16 } ∧
  (∀ (i : Instr) (s : State), execFor i s = exec i s) ∧ ∀ s : State, stepFor s = step s

/-- R7, with the rules that read each parameter, R70, R71, R75, R101, R102, R161, R180, R200, R201, R202, R204, R253 and
R345: what each parameter rules, at settings that fit the core (ten segment bytes, four select bytes, one to four
positions, 13, 16 and 16 bits at most, no zero modulus or full scale). SEG_ROM and SEL_ROM are what the lookups read;
ES_MODULUS is where TICK wraps and where the timer operands end; ES_WIDTH is where a count that does not meet the
modulus wraps; VREF_CV and ADC_FULL_SCALE scale the centivolts; DP_MASK makes the point, of either mode, and BLANK the
blank; a frame is FRAME_BITS bits; POT delivers ADC_BITS bits; the position advances modulo NUM_DIGITS; CASCADE_ORDER
says which chip holds which byte; and no operation reads a period. The form of the parameters is log 19; that ES wraps
at its width, that POT keeps the low bits, and the fault of a volts digit above 9 (I7) are the model's choice
(log 20). -/
def Obligations.ParametersRuleTheOperations : Prop :=
  ∀ (P : Params) (s : State), s.flt = 0 →
    P.segRom.length = 10 → P.selRom.length = 4 → 0 < P.numDigits → P.numDigits ≤ 4 → P.esWidth ≤ 13 →
    P.adcBits ≤ 16 → P.frameBits ≤ 16 → 0 < P.esModulus → 0 < P.adcFullScale →
    (∀ d : Digit, execFor (.segenc d) s P =
      match P.segRom[d.toNat]? with
      | some b => .next { s with res := b.setWidth 32 }
      | none => .next { s with flt := 2 }) ∧
    (∀ (p : Position) (b : Byte), P.selRom[p.toNat]? = some b →
      execFor (.selenc p) s P = .next { s with res := b.setWidth 32 }) ∧
    (P.esModulus ≤ 2 ^ P.esWidth → s.es.toNat < P.esModulus →
      ∃ es : Elapsed, es.toNat = (s.es.toNat + 1) % P.esModulus ∧ execFor .tick s P = .next { s with es := es }) ∧
    (s.es.toNat + 1 ≠ P.esModulus →
      ∃ es : Elapsed, es.toNat = (s.es.toNat + 1) % 2 ^ P.esWidth ∧ execFor .tick s P = .next { s with es := es }) ∧
    (∀ (p : Position) (e : Elapsed), P.esModulus ≤ e.toNat →
      execFor (.splitt e) s P = .next { s with flt := 3 } ∧ execFor (.rendt p e) s P = .next { s with flt := 3 }) ∧
    (∀ (e : Elapsed) (b : Byte), e.toNat < P.esModulus → P.segRom[e.toNat / 60 % 10]? = some b →
      execFor (.rendt 1 e) s P = .next { s with res := (b &&& P.dpMask).setWidth 32 }) ∧
    (∀ (c : Code) (v : Nat), v = c.toNat * P.vrefCv / P.adcFullScale →
      (v < 512 → execFor (.splitv c) s P = .next { s with res := (splitVolts v).setWidth 32 }) ∧
      execFor (.rendv 3 c) s P = .next { s with res := P.blank.setWidth 32 } ∧
      (∀ b : Byte, P.segRom[v / 100]? = some b →
        execFor (.rendv 0 c) s P = .next { s with res := (b &&& P.dpMask).setWidth 32 }) ∧
      (10 ≤ v / 100 → execFor (.rendv 0 c) s P = .next { s with flt := 2 })) ∧
    (∀ a b : Byte, ∃ t, execFor (.write a b) s P = .next t ∧ t.trace.length = s.trace.length + 2 + 3 * P.frameBits) ∧
    (∀ (code : Code) (seg : Byte), s.ph = .p3 → s.pr = true →
      (s.policy = .perDigit ∨ s.ad = 0) → s.inputs.pot = some code →
      renderDigit s.mode s.ad s.es (portCode code P) P = .ok seg →
      ∃ t, execFor .step s P = .next t ∧ t.ad.toNat = (s.ad.toNat + 1) % P.numDigits ∧
        t.vh.toNat = code.toNat % 2 ^ P.adcBits) ∧
    (∀ out : Frame,
      (P.cascadeOrder = .segFirstChip → chipBytes out P = (segmentByte out, selectByte out)) ∧
      (P.cascadeOrder = .selFirstChip → chipBytes out P = (selectByte out, segmentByte out))) ∧
    ∀ (i : Instr) (tickMs refreshMs : Nat),
      execFor i s { P with tickPeriodMs := tickMs, refreshPeriodMs := refreshMs } = execFor i s P

/-! ## Rules of the whole machine -/

/-- R33 to R39, R44, R48, R51: which operation may write which state. A register, pin or chain field an operation is not
named for is unchanged by it, in every state (for FLT, with ES in range). The clauses on the model's own fields are the
model's, not the spec's: no operation changes the sampling policy (log 4), the link (log 14), the events that are ready
(log 1) or what the ports show (log 2), and the draw counter moves only at a STEP (log 2), or at a frame sent without
the link (log 14). -/
def Obligations.OperationsWriteOnlyTheirOwnState : Prop :=
  ∀ (i : Instr) (s t : State), exec i s = .next t →
    (t.es = s.es ∨ i = .tick ∨ i = .treset ∨ (i = .step ∧ s.ph = .p1)) ∧
    (t.ad = s.ad ∨ (i = .step ∧ s.ph = .p3 ∧ s.pr = true)) ∧
    (t.mode = s.mode ∨ (i = .step ∧ s.ph = .p2)) ∧
    (t.pr = s.pr ∨ i = .rtick ∨ (i = .step ∧ s.ph = .p3)) ∧
    (t.vh = s.vh ∨ (i = .step ∧ s.ph = .p3 ∧ s.pr = true)) ∧
    (t.ph = s.ph ∨ i = .step) ∧
    (t.res = s.res ∨ i = .tread ∨ (∃ d, i = .segenc d) ∨ (∃ p, i = .selenc p) ∨ (∃ e, i = .splitt e) ∨
      (∃ c, i = .splitv c) ∨ (∃ p e, i = .rendt p e) ∨ (∃ p c, i = .rendv p c)) ∧
    (s.es.toNat < 6000 → t.flt = s.flt ∨ (∃ d, i = .segenc d) ∨ (∃ e, i = .splitt e) ∨ (∃ p e, i = .rendt p e)) ∧
    ((t.data = s.data ∧ t.clock = s.clock ∧ t.latch = s.latch ∧ t.trace = s.trace ∧ t.chain = s.chain ∧
        t.out = s.out) ∨ (∃ a b, i = .write a b) ∨ (i = .step ∧ s.ph = .p3 ∧ s.pr = true)) ∧
    (t.draws = s.draws ∨ i = .step ∨ (s.link = false ∧ ∃ a b, i = .write a b)) ∧ t.policy = s.policy ∧
    t.link = s.link ∧ t.events = s.events ∧ t.inputs = s.inputs

/-- R280, R281 (D4, D5, D16, D21): a fault's cause and its precision. When a word arrives at a running core with ES in
range and FLT is set afterwards, nothing but FLT has changed, and FLT is 1 exactly for an illegal word, 2 exactly for
SEGENC with d from 10 on, 3 exactly for SPLITT or RENDT with e from 6000 on. -/
def Obligations.FaultsArePreciseAndOfTheListedCauses : Prop :=
  ∀ (w : OpWord) (s t : State), s.flt = 0 → s.es.toNat < 6000 → execWord w s = .next t →
    (t.flt ≠ 0 → t = { s with flt := t.flt }) ∧
    (t.flt = 1 ↔ ∃ why, decode w = .error why) ∧
    (t.flt = 2 ↔ ∃ d : Digit, decode w = .ok (.segenc d) ∧ 10 ≤ d.toNat) ∧
    (t.flt = 3 ↔ ∃ e : Elapsed, 6000 ≤ e.toNat ∧
      (decode w = .ok (.splitt e) ∨ ∃ p, decode w = .ok (.rendt p e)))

/-- R9, R51: the six pure queries read no state. In any two running states they leave the same fault register, and the
same RES where they do not fault, and they change nothing else. -/
def Obligations.PureQueriesReadNoState : Prop :=
  ∀ (i : Instr) (s s' t t' : State),
    ((∃ d, i = .segenc d) ∨ (∃ p, i = .selenc p) ∨ (∃ e, i = .splitt e) ∨ (∃ c, i = .splitv c) ∨
      (∃ p e, i = .rendt p e) ∨ (∃ p c, i = .rendv p c)) →
    s.flt = 0 → s'.flt = 0 → exec i s = .next t → exec i s' = .next t' →
      t.flt = t'.flt ∧ (t.flt = 0 → t.res = t'.res) ∧ t = { s with res := t.res, flt := t.flt }

/-- R10, R112 (D1, D2): which agent issues an operation and on which port it arrives. The two event sources and the
sequencer issue TICK, RTICK and STEP; every other operation is the harness's, on the command port. -/
def Obligations.AgentsAndPortsOfTheOperations : Prop :=
  (∀ i, agentOf i = .secondSource ↔ i = .tick) ∧ (∀ i, agentOf i = .refreshSource ↔ i = .rtick) ∧
  (∀ i, agentOf i = .sequencer ↔ i = .step) ∧
  (∀ i, portOf i = .tickOneSecond ↔ i = .tick) ∧ (∀ i, portOf i = .tickRefresh ↔ i = .rtick) ∧
  (∀ i, portOf i = .internal ↔ i = .step) ∧
  ∀ i, agentOf i = .harness ↔ portOf i = .command

/-! ## Invariants -/

/-- R184, R300, and the round robin of R231: the two invariants hold at reset. -/
def Obligations.InvariantsHoldAtReset : Prop := CoreInv State.reset ∧ RoundRobin State.reset

/-- R44, R161, R184, R300: every step keeps the invariant: ES stays below 6000; TRACE stays a whole number of frames;
the pins stay where TRACE leaves them; and, with the link there, CHAIN and OUT stay what the external chain makes of
TRACE from its power-up contents. -/
def Obligations.EveryStepKeepsTheInvariant : Prop := ∀ s t : State, CoreInv s → step s = .next t → CoreInv t

/-- R231, R232, R255: without a harness, every step keeps the core running and keeps the round robin: TRACE is the
frames of the refreshes since power-on, the n-th of them for position n mod 4, and AD is their number mod 4. -/
def Obligations.DeployedStepKeepsTheRoundRobin : Prop :=
  ∀ s t : State, RoundRobin s → DeployedNext s → step s = .next t → RoundRobin t

/-- R9, R81, R255, R259, R281: a run of operations that no harness takes part in, in whatever order the sequencer and
the event sources issue them and whatever the inputs show, happens to its end, never halts the core, and keeps the
round robin: every fault comes from a harness operation. -/
def Obligations.DeployedRunsNeverHalt : Prop :=
  ∀ (ops : List Issue) (s : State) (rest : List Event), RoundRobin s → (∀ o ∈ ops, agentOf o.op ≠ .harness) →
    s.events = ops.map (fun o => Event.word (encode o.op) o.inputs) ++ rest →
    ∃ t, Host.Core.run core ops.length s = .next t ∧ RoundRobin t ∧ halted t = false ∧ t.events = rest
end

