-- ==== Sys2Proof/Laws/State.lean ====
section
/-! SUPPORT. What each named update does to each field of State: one lemma per field and update, so that no later
proof unfolds a record update. -/

namespace Sys2Proof.Machine

/-! ## setPending -/

@[simp] theorem setPending_es (s : State) : (setPending s).es = s.es := rfl
@[simp] theorem setPending_ad (s : State) : (setPending s).ad = s.ad := rfl
@[simp] theorem setPending_mode (s : State) : (setPending s).mode = s.mode := rfl
@[simp] theorem setPending_pr (s : State) : (setPending s).pr = true := rfl
@[simp] theorem setPending_vh (s : State) : (setPending s).vh = s.vh := rfl
@[simp] theorem setPending_ph (s : State) : (setPending s).ph = s.ph := rfl
@[simp] theorem setPending_res (s : State) : (setPending s).res = s.res := rfl
@[simp] theorem setPending_flt (s : State) : (setPending s).flt = s.flt := rfl
@[simp] theorem setPending_data (s : State) : (setPending s).data = s.data := rfl
@[simp] theorem setPending_clock (s : State) : (setPending s).clock = s.clock := rfl
@[simp] theorem setPending_latch (s : State) : (setPending s).latch = s.latch := rfl
@[simp] theorem setPending_trace (s : State) : (setPending s).trace = s.trace := rfl
@[simp] theorem setPending_chain (s : State) : (setPending s).chain = s.chain := rfl
@[simp] theorem setPending_out (s : State) : (setPending s).out = s.out := rfl
@[simp] theorem setPending_policy (s : State) : (setPending s).policy = s.policy := rfl
@[simp] theorem setPending_link (s : State) : (setPending s).link = s.link := rfl
@[simp] theorem setPending_events (s : State) : (setPending s).events = s.events := rfl
@[simp] theorem setPending_inputs (s : State) : (setPending s).inputs = s.inputs := rfl
@[simp] theorem setPending_draws (s : State) : (setPending s).draws = s.draws := rfl

/-! ## clearPending -/

@[simp] theorem clearPending_es (s : State) : (clearPending s).es = s.es := rfl
@[simp] theorem clearPending_ad (s : State) : (clearPending s).ad = s.ad := rfl
@[simp] theorem clearPending_mode (s : State) : (clearPending s).mode = s.mode := rfl
@[simp] theorem clearPending_pr (s : State) : (clearPending s).pr = false := rfl
@[simp] theorem clearPending_vh (s : State) : (clearPending s).vh = s.vh := rfl
@[simp] theorem clearPending_ph (s : State) : (clearPending s).ph = s.ph := rfl
@[simp] theorem clearPending_res (s : State) : (clearPending s).res = s.res := rfl
@[simp] theorem clearPending_flt (s : State) : (clearPending s).flt = s.flt := rfl
@[simp] theorem clearPending_data (s : State) : (clearPending s).data = s.data := rfl
@[simp] theorem clearPending_clock (s : State) : (clearPending s).clock = s.clock := rfl
@[simp] theorem clearPending_latch (s : State) : (clearPending s).latch = s.latch := rfl
@[simp] theorem clearPending_trace (s : State) : (clearPending s).trace = s.trace := rfl
@[simp] theorem clearPending_chain (s : State) : (clearPending s).chain = s.chain := rfl
@[simp] theorem clearPending_out (s : State) : (clearPending s).out = s.out := rfl
@[simp] theorem clearPending_policy (s : State) : (clearPending s).policy = s.policy := rfl
@[simp] theorem clearPending_link (s : State) : (clearPending s).link = s.link := rfl
@[simp] theorem clearPending_events (s : State) : (clearPending s).events = s.events := rfl
@[simp] theorem clearPending_inputs (s : State) : (clearPending s).inputs = s.inputs := rfl
@[simp] theorem clearPending_draws (s : State) : (clearPending s).draws = s.draws := rfl

/-! ## resetElapsed -/

@[simp] theorem resetElapsed_es (s : State) : (resetElapsed s).es = 0 := rfl
@[simp] theorem resetElapsed_ad (s : State) : (resetElapsed s).ad = s.ad := rfl
@[simp] theorem resetElapsed_mode (s : State) : (resetElapsed s).mode = s.mode := rfl
@[simp] theorem resetElapsed_pr (s : State) : (resetElapsed s).pr = s.pr := rfl
@[simp] theorem resetElapsed_vh (s : State) : (resetElapsed s).vh = s.vh := rfl
@[simp] theorem resetElapsed_ph (s : State) : (resetElapsed s).ph = s.ph := rfl
@[simp] theorem resetElapsed_res (s : State) : (resetElapsed s).res = s.res := rfl
@[simp] theorem resetElapsed_flt (s : State) : (resetElapsed s).flt = s.flt := rfl
@[simp] theorem resetElapsed_data (s : State) : (resetElapsed s).data = s.data := rfl
@[simp] theorem resetElapsed_clock (s : State) : (resetElapsed s).clock = s.clock := rfl
@[simp] theorem resetElapsed_latch (s : State) : (resetElapsed s).latch = s.latch := rfl
@[simp] theorem resetElapsed_trace (s : State) : (resetElapsed s).trace = s.trace := rfl
@[simp] theorem resetElapsed_chain (s : State) : (resetElapsed s).chain = s.chain := rfl
@[simp] theorem resetElapsed_out (s : State) : (resetElapsed s).out = s.out := rfl
@[simp] theorem resetElapsed_policy (s : State) : (resetElapsed s).policy = s.policy := rfl
@[simp] theorem resetElapsed_link (s : State) : (resetElapsed s).link = s.link := rfl
@[simp] theorem resetElapsed_events (s : State) : (resetElapsed s).events = s.events := rfl
@[simp] theorem resetElapsed_inputs (s : State) : (resetElapsed s).inputs = s.inputs := rfl
@[simp] theorem resetElapsed_draws (s : State) : (resetElapsed s).draws = s.draws := rfl

/-! ## setResult -/

@[simp] theorem setResult_es {n : Nat} (v : BitVec n) (s : State) : (setResult v s).es = s.es := rfl
@[simp] theorem setResult_ad {n : Nat} (v : BitVec n) (s : State) : (setResult v s).ad = s.ad := rfl
@[simp] theorem setResult_mode {n : Nat} (v : BitVec n) (s : State) : (setResult v s).mode = s.mode := rfl
@[simp] theorem setResult_pr {n : Nat} (v : BitVec n) (s : State) : (setResult v s).pr = s.pr := rfl
@[simp] theorem setResult_vh {n : Nat} (v : BitVec n) (s : State) : (setResult v s).vh = s.vh := rfl
@[simp] theorem setResult_ph {n : Nat} (v : BitVec n) (s : State) : (setResult v s).ph = s.ph := rfl
@[simp] theorem setResult_res {n : Nat} (v : BitVec n) (s : State) : (setResult v s).res = v.setWidth 32 := rfl
@[simp] theorem setResult_flt {n : Nat} (v : BitVec n) (s : State) : (setResult v s).flt = s.flt := rfl
@[simp] theorem setResult_data {n : Nat} (v : BitVec n) (s : State) : (setResult v s).data = s.data := rfl
@[simp] theorem setResult_clock {n : Nat} (v : BitVec n) (s : State) : (setResult v s).clock = s.clock := rfl
@[simp] theorem setResult_latch {n : Nat} (v : BitVec n) (s : State) : (setResult v s).latch = s.latch := rfl
@[simp] theorem setResult_trace {n : Nat} (v : BitVec n) (s : State) : (setResult v s).trace = s.trace := rfl
@[simp] theorem setResult_chain {n : Nat} (v : BitVec n) (s : State) : (setResult v s).chain = s.chain := rfl
@[simp] theorem setResult_out {n : Nat} (v : BitVec n) (s : State) : (setResult v s).out = s.out := rfl
@[simp] theorem setResult_policy {n : Nat} (v : BitVec n) (s : State) : (setResult v s).policy = s.policy := rfl
@[simp] theorem setResult_link {n : Nat} (v : BitVec n) (s : State) : (setResult v s).link = s.link := rfl
@[simp] theorem setResult_events {n : Nat} (v : BitVec n) (s : State) : (setResult v s).events = s.events := rfl
@[simp] theorem setResult_inputs {n : Nat} (v : BitVec n) (s : State) : (setResult v s).inputs = s.inputs := rfl
@[simp] theorem setResult_draws {n : Nat} (v : BitVec n) (s : State) : (setResult v s).draws = s.draws := rfl

/-! ## putWires -/

@[simp] theorem putWires_es (w : Wires) (s : State) : (putWires w s).es = s.es := rfl
@[simp] theorem putWires_ad (w : Wires) (s : State) : (putWires w s).ad = s.ad := rfl
@[simp] theorem putWires_mode (w : Wires) (s : State) : (putWires w s).mode = s.mode := rfl
@[simp] theorem putWires_pr (w : Wires) (s : State) : (putWires w s).pr = s.pr := rfl
@[simp] theorem putWires_vh (w : Wires) (s : State) : (putWires w s).vh = s.vh := rfl
@[simp] theorem putWires_ph (w : Wires) (s : State) : (putWires w s).ph = s.ph := rfl
@[simp] theorem putWires_res (w : Wires) (s : State) : (putWires w s).res = s.res := rfl
@[simp] theorem putWires_flt (w : Wires) (s : State) : (putWires w s).flt = s.flt := rfl
@[simp] theorem putWires_data (w : Wires) (s : State) : (putWires w s).data = w.data := rfl
@[simp] theorem putWires_clock (w : Wires) (s : State) : (putWires w s).clock = w.clock := rfl
@[simp] theorem putWires_latch (w : Wires) (s : State) : (putWires w s).latch = w.latch := rfl
@[simp] theorem putWires_trace (w : Wires) (s : State) : (putWires w s).trace = s.trace := rfl
@[simp] theorem putWires_chain (w : Wires) (s : State) : (putWires w s).chain = w.chain := rfl
@[simp] theorem putWires_out (w : Wires) (s : State) : (putWires w s).out = w.out := rfl
@[simp] theorem putWires_policy (w : Wires) (s : State) : (putWires w s).policy = s.policy := rfl
@[simp] theorem putWires_link (w : Wires) (s : State) : (putWires w s).link = s.link := rfl
@[simp] theorem putWires_events (w : Wires) (s : State) : (putWires w s).events = s.events := rfl
@[simp] theorem putWires_inputs (w : Wires) (s : State) : (putWires w s).inputs = s.inputs := rfl
@[simp] theorem putWires_draws (w : Wires) (s : State) : (putWires w s).draws = s.draws := rfl

/-! ## emit -/

@[simp] theorem emit_es (e : PinEvent) (s : State) : (emit e s).es = s.es := rfl
@[simp] theorem emit_ad (e : PinEvent) (s : State) : (emit e s).ad = s.ad := rfl
@[simp] theorem emit_mode (e : PinEvent) (s : State) : (emit e s).mode = s.mode := rfl
@[simp] theorem emit_pr (e : PinEvent) (s : State) : (emit e s).pr = s.pr := rfl
@[simp] theorem emit_vh (e : PinEvent) (s : State) : (emit e s).vh = s.vh := rfl
@[simp] theorem emit_ph (e : PinEvent) (s : State) : (emit e s).ph = s.ph := rfl
@[simp] theorem emit_res (e : PinEvent) (s : State) : (emit e s).res = s.res := rfl
@[simp] theorem emit_flt (e : PinEvent) (s : State) : (emit e s).flt = s.flt := rfl
@[simp] theorem emit_data (e : PinEvent) (s : State) : (emit e s).data = (boardWires e s).data := rfl
@[simp] theorem emit_clock (e : PinEvent) (s : State) : (emit e s).clock = (boardWires e s).clock := rfl
@[simp] theorem emit_latch (e : PinEvent) (s : State) : (emit e s).latch = (boardWires e s).latch := rfl
@[simp] theorem emit_trace (e : PinEvent) (s : State) : (emit e s).trace = s.trace ++ [e] := rfl
@[simp] theorem emit_chain (e : PinEvent) (s : State) : (emit e s).chain = (boardWires e s).chain := rfl
@[simp] theorem emit_out (e : PinEvent) (s : State) : (emit e s).out = (boardWires e s).out := rfl
@[simp] theorem emit_policy (e : PinEvent) (s : State) : (emit e s).policy = s.policy := rfl
@[simp] theorem emit_link (e : PinEvent) (s : State) : (emit e s).link = s.link := rfl
@[simp] theorem emit_events (e : PinEvent) (s : State) : (emit e s).events = s.events := rfl
@[simp] theorem emit_inputs (e : PinEvent) (s : State) : (emit e s).inputs = s.inputs := rfl
@[simp] theorem emit_draws (e : PinEvent) (s : State) : (emit e s).draws = if s.link then s.draws else s.draws + 1 := rfl

/-! ## powerOn -/

@[simp] theorem powerOn_es (chain out : Frame) (s : State) : (powerOn chain out s).es = 0 := rfl
@[simp] theorem powerOn_ad (chain out : Frame) (s : State) : (powerOn chain out s).ad = 0 := rfl
@[simp] theorem powerOn_mode (chain out : Frame) (s : State) : (powerOn chain out s).mode = .timer := rfl
@[simp] theorem powerOn_pr (chain out : Frame) (s : State) : (powerOn chain out s).pr = false := rfl
@[simp] theorem powerOn_vh (chain out : Frame) (s : State) : (powerOn chain out s).vh = 0 := rfl
@[simp] theorem powerOn_ph (chain out : Frame) (s : State) : (powerOn chain out s).ph = .p1 := rfl
@[simp] theorem powerOn_res (chain out : Frame) (s : State) : (powerOn chain out s).res = 0 := rfl
@[simp] theorem powerOn_flt (chain out : Frame) (s : State) : (powerOn chain out s).flt = 0 := rfl
@[simp] theorem powerOn_data (chain out : Frame) (s : State) : (powerOn chain out s).data = false := rfl
@[simp] theorem powerOn_clock (chain out : Frame) (s : State) : (powerOn chain out s).clock = false := rfl
@[simp] theorem powerOn_latch (chain out : Frame) (s : State) : (powerOn chain out s).latch = false := rfl
@[simp] theorem powerOn_trace (chain out : Frame) (s : State) : (powerOn chain out s).trace = [] := rfl
@[simp] theorem powerOn_chain (chain out : Frame) (s : State) : (powerOn chain out s).chain = chain := rfl
@[simp] theorem powerOn_out (chain out : Frame) (s : State) : (powerOn chain out s).out = out := rfl
@[simp] theorem powerOn_policy (chain out : Frame) (s : State) : (powerOn chain out s).policy = s.policy := rfl
@[simp] theorem powerOn_link (chain out : Frame) (s : State) : (powerOn chain out s).link = s.link := rfl
@[simp] theorem powerOn_events (chain out : Frame) (s : State) : (powerOn chain out s).events = s.events := rfl
@[simp] theorem powerOn_inputs (chain out : Frame) (s : State) : (powerOn chain out s).inputs = s.inputs := rfl
@[simp] theorem powerOn_draws (chain out : Frame) (s : State) : (powerOn chain out s).draws = s.draws := rfl

/-! ## sampleResetN -/

@[simp] theorem sampleResetN_es (s : State) : (sampleResetN s).2.es = s.es := by
  unfold sampleResetN sample; cases s.inputs.resetN <;> rfl
@[simp] theorem sampleResetN_ad (s : State) : (sampleResetN s).2.ad = s.ad := by
  unfold sampleResetN sample; cases s.inputs.resetN <;> rfl
@[simp] theorem sampleResetN_mode (s : State) : (sampleResetN s).2.mode = s.mode := by
  unfold sampleResetN sample; cases s.inputs.resetN <;> rfl
@[simp] theorem sampleResetN_pr (s : State) : (sampleResetN s).2.pr = s.pr := by
  unfold sampleResetN sample; cases s.inputs.resetN <;> rfl
@[simp] theorem sampleResetN_vh (s : State) : (sampleResetN s).2.vh = s.vh := by
  unfold sampleResetN sample; cases s.inputs.resetN <;> rfl
@[simp] theorem sampleResetN_ph (s : State) : (sampleResetN s).2.ph = s.ph := by
  unfold sampleResetN sample; cases s.inputs.resetN <;> rfl
@[simp] theorem sampleResetN_res (s : State) : (sampleResetN s).2.res = s.res := by
  unfold sampleResetN sample; cases s.inputs.resetN <;> rfl
@[simp] theorem sampleResetN_flt (s : State) : (sampleResetN s).2.flt = s.flt := by
  unfold sampleResetN sample; cases s.inputs.resetN <;> rfl
@[simp] theorem sampleResetN_data (s : State) : (sampleResetN s).2.data = s.data := by
  unfold sampleResetN sample; cases s.inputs.resetN <;> rfl
@[simp] theorem sampleResetN_clock (s : State) : (sampleResetN s).2.clock = s.clock := by
  unfold sampleResetN sample; cases s.inputs.resetN <;> rfl
@[simp] theorem sampleResetN_latch (s : State) : (sampleResetN s).2.latch = s.latch := by
  unfold sampleResetN sample; cases s.inputs.resetN <;> rfl
@[simp] theorem sampleResetN_trace (s : State) : (sampleResetN s).2.trace = s.trace := by
  unfold sampleResetN sample; cases s.inputs.resetN <;> rfl
@[simp] theorem sampleResetN_chain (s : State) : (sampleResetN s).2.chain = s.chain := by
  unfold sampleResetN sample; cases s.inputs.resetN <;> rfl
@[simp] theorem sampleResetN_out (s : State) : (sampleResetN s).2.out = s.out := by
  unfold sampleResetN sample; cases s.inputs.resetN <;> rfl
@[simp] theorem sampleResetN_policy (s : State) : (sampleResetN s).2.policy = s.policy := by
  unfold sampleResetN sample; cases s.inputs.resetN <;> rfl
@[simp] theorem sampleResetN_link (s : State) : (sampleResetN s).2.link = s.link := by
  unfold sampleResetN sample; cases s.inputs.resetN <;> rfl
@[simp] theorem sampleResetN_events (s : State) : (sampleResetN s).2.events = s.events := by
  unfold sampleResetN sample; cases s.inputs.resetN <;> rfl
@[simp] theorem sampleResetN_inputs (s : State) : (sampleResetN s).2.inputs = s.inputs := by
  unfold sampleResetN sample; cases s.inputs.resetN <;> rfl

/-! ## sampleModeN -/

@[simp] theorem sampleModeN_es (s : State) : (sampleModeN s).2.es = s.es := by
  unfold sampleModeN sample; cases s.inputs.modeN <;> rfl
@[simp] theorem sampleModeN_ad (s : State) : (sampleModeN s).2.ad = s.ad := by
  unfold sampleModeN sample; cases s.inputs.modeN <;> rfl
@[simp] theorem sampleModeN_mode (s : State) : (sampleModeN s).2.mode = s.mode := by
  unfold sampleModeN sample; cases s.inputs.modeN <;> rfl
@[simp] theorem sampleModeN_pr (s : State) : (sampleModeN s).2.pr = s.pr := by
  unfold sampleModeN sample; cases s.inputs.modeN <;> rfl
@[simp] theorem sampleModeN_vh (s : State) : (sampleModeN s).2.vh = s.vh := by
  unfold sampleModeN sample; cases s.inputs.modeN <;> rfl
@[simp] theorem sampleModeN_ph (s : State) : (sampleModeN s).2.ph = s.ph := by
  unfold sampleModeN sample; cases s.inputs.modeN <;> rfl
@[simp] theorem sampleModeN_res (s : State) : (sampleModeN s).2.res = s.res := by
  unfold sampleModeN sample; cases s.inputs.modeN <;> rfl
@[simp] theorem sampleModeN_flt (s : State) : (sampleModeN s).2.flt = s.flt := by
  unfold sampleModeN sample; cases s.inputs.modeN <;> rfl
@[simp] theorem sampleModeN_data (s : State) : (sampleModeN s).2.data = s.data := by
  unfold sampleModeN sample; cases s.inputs.modeN <;> rfl
@[simp] theorem sampleModeN_clock (s : State) : (sampleModeN s).2.clock = s.clock := by
  unfold sampleModeN sample; cases s.inputs.modeN <;> rfl
@[simp] theorem sampleModeN_latch (s : State) : (sampleModeN s).2.latch = s.latch := by
  unfold sampleModeN sample; cases s.inputs.modeN <;> rfl
@[simp] theorem sampleModeN_trace (s : State) : (sampleModeN s).2.trace = s.trace := by
  unfold sampleModeN sample; cases s.inputs.modeN <;> rfl
@[simp] theorem sampleModeN_chain (s : State) : (sampleModeN s).2.chain = s.chain := by
  unfold sampleModeN sample; cases s.inputs.modeN <;> rfl
@[simp] theorem sampleModeN_out (s : State) : (sampleModeN s).2.out = s.out := by
  unfold sampleModeN sample; cases s.inputs.modeN <;> rfl
@[simp] theorem sampleModeN_policy (s : State) : (sampleModeN s).2.policy = s.policy := by
  unfold sampleModeN sample; cases s.inputs.modeN <;> rfl
@[simp] theorem sampleModeN_link (s : State) : (sampleModeN s).2.link = s.link := by
  unfold sampleModeN sample; cases s.inputs.modeN <;> rfl
@[simp] theorem sampleModeN_events (s : State) : (sampleModeN s).2.events = s.events := by
  unfold sampleModeN sample; cases s.inputs.modeN <;> rfl
@[simp] theorem sampleModeN_inputs (s : State) : (sampleModeN s).2.inputs = s.inputs := by
  unfold sampleModeN sample; cases s.inputs.modeN <;> rfl

/-! ## samplePot -/

@[simp] theorem samplePot_es (s : State) : (samplePot s).2.es = s.es := by
  unfold samplePot sample; cases s.inputs.pot <;> rfl
@[simp] theorem samplePot_ad (s : State) : (samplePot s).2.ad = s.ad := by
  unfold samplePot sample; cases s.inputs.pot <;> rfl
@[simp] theorem samplePot_mode (s : State) : (samplePot s).2.mode = s.mode := by
  unfold samplePot sample; cases s.inputs.pot <;> rfl
@[simp] theorem samplePot_pr (s : State) : (samplePot s).2.pr = s.pr := by
  unfold samplePot sample; cases s.inputs.pot <;> rfl
@[simp] theorem samplePot_vh (s : State) : (samplePot s).2.vh = s.vh := by
  unfold samplePot sample; cases s.inputs.pot <;> rfl
@[simp] theorem samplePot_ph (s : State) : (samplePot s).2.ph = s.ph := by
  unfold samplePot sample; cases s.inputs.pot <;> rfl
@[simp] theorem samplePot_res (s : State) : (samplePot s).2.res = s.res := by
  unfold samplePot sample; cases s.inputs.pot <;> rfl
@[simp] theorem samplePot_flt (s : State) : (samplePot s).2.flt = s.flt := by
  unfold samplePot sample; cases s.inputs.pot <;> rfl
@[simp] theorem samplePot_data (s : State) : (samplePot s).2.data = s.data := by
  unfold samplePot sample; cases s.inputs.pot <;> rfl
@[simp] theorem samplePot_clock (s : State) : (samplePot s).2.clock = s.clock := by
  unfold samplePot sample; cases s.inputs.pot <;> rfl
@[simp] theorem samplePot_latch (s : State) : (samplePot s).2.latch = s.latch := by
  unfold samplePot sample; cases s.inputs.pot <;> rfl
@[simp] theorem samplePot_trace (s : State) : (samplePot s).2.trace = s.trace := by
  unfold samplePot sample; cases s.inputs.pot <;> rfl
@[simp] theorem samplePot_chain (s : State) : (samplePot s).2.chain = s.chain := by
  unfold samplePot sample; cases s.inputs.pot <;> rfl
@[simp] theorem samplePot_out (s : State) : (samplePot s).2.out = s.out := by
  unfold samplePot sample; cases s.inputs.pot <;> rfl
@[simp] theorem samplePot_policy (s : State) : (samplePot s).2.policy = s.policy := by
  unfold samplePot sample; cases s.inputs.pot <;> rfl
@[simp] theorem samplePot_link (s : State) : (samplePot s).2.link = s.link := by
  unfold samplePot sample; cases s.inputs.pot <;> rfl
@[simp] theorem samplePot_events (s : State) : (samplePot s).2.events = s.events := by
  unfold samplePot sample; cases s.inputs.pot <;> rfl
@[simp] theorem samplePot_inputs (s : State) : (samplePot s).2.inputs = s.inputs := by
  unfold samplePot sample; cases s.inputs.pot <;> rfl

/-! ## showInputs -/

@[simp] theorem showInputs_es (inputs : Inputs) (s : State) : (showInputs inputs s).es = s.es := rfl
@[simp] theorem showInputs_ad (inputs : Inputs) (s : State) : (showInputs inputs s).ad = s.ad := rfl
@[simp] theorem showInputs_mode (inputs : Inputs) (s : State) : (showInputs inputs s).mode = s.mode := rfl
@[simp] theorem showInputs_pr (inputs : Inputs) (s : State) : (showInputs inputs s).pr = s.pr := rfl
@[simp] theorem showInputs_vh (inputs : Inputs) (s : State) : (showInputs inputs s).vh = s.vh := rfl
@[simp] theorem showInputs_ph (inputs : Inputs) (s : State) : (showInputs inputs s).ph = s.ph := rfl
@[simp] theorem showInputs_res (inputs : Inputs) (s : State) : (showInputs inputs s).res = s.res := rfl
@[simp] theorem showInputs_flt (inputs : Inputs) (s : State) : (showInputs inputs s).flt = s.flt := rfl
@[simp] theorem showInputs_data (inputs : Inputs) (s : State) : (showInputs inputs s).data = s.data := rfl
@[simp] theorem showInputs_clock (inputs : Inputs) (s : State) : (showInputs inputs s).clock = s.clock := rfl
@[simp] theorem showInputs_latch (inputs : Inputs) (s : State) : (showInputs inputs s).latch = s.latch := rfl
@[simp] theorem showInputs_trace (inputs : Inputs) (s : State) : (showInputs inputs s).trace = s.trace := rfl
@[simp] theorem showInputs_chain (inputs : Inputs) (s : State) : (showInputs inputs s).chain = s.chain := rfl
@[simp] theorem showInputs_out (inputs : Inputs) (s : State) : (showInputs inputs s).out = s.out := rfl
@[simp] theorem showInputs_policy (inputs : Inputs) (s : State) : (showInputs inputs s).policy = s.policy := rfl
@[simp] theorem showInputs_link (inputs : Inputs) (s : State) : (showInputs inputs s).link = s.link := rfl
@[simp] theorem showInputs_events (inputs : Inputs) (s : State) : (showInputs inputs s).events = s.events := rfl
@[simp] theorem showInputs_inputs (inputs : Inputs) (s : State) : (showInputs inputs s).inputs = inputs := rfl
@[simp] theorem showInputs_draws (inputs : Inputs) (s : State) : (showInputs inputs s).draws = s.draws := rfl

/-! ## withFetchWord -/

@[simp] theorem withFetchWord_es (s : State) (nbits w : Nat) : (s.withFetchWord nbits w).es = s.es := rfl
@[simp] theorem withFetchWord_ad (s : State) (nbits w : Nat) : (s.withFetchWord nbits w).ad = s.ad := rfl
@[simp] theorem withFetchWord_mode (s : State) (nbits w : Nat) : (s.withFetchWord nbits w).mode = s.mode := rfl
@[simp] theorem withFetchWord_pr (s : State) (nbits w : Nat) : (s.withFetchWord nbits w).pr = s.pr := rfl
@[simp] theorem withFetchWord_vh (s : State) (nbits w : Nat) : (s.withFetchWord nbits w).vh = s.vh := rfl
@[simp] theorem withFetchWord_ph (s : State) (nbits w : Nat) : (s.withFetchWord nbits w).ph = s.ph := rfl
@[simp] theorem withFetchWord_res (s : State) (nbits w : Nat) : (s.withFetchWord nbits w).res = s.res := rfl
@[simp] theorem withFetchWord_flt (s : State) (nbits w : Nat) : (s.withFetchWord nbits w).flt = s.flt := rfl
@[simp] theorem withFetchWord_data (s : State) (nbits w : Nat) : (s.withFetchWord nbits w).data = s.data := rfl
@[simp] theorem withFetchWord_clock (s : State) (nbits w : Nat) : (s.withFetchWord nbits w).clock = s.clock := rfl
@[simp] theorem withFetchWord_latch (s : State) (nbits w : Nat) : (s.withFetchWord nbits w).latch = s.latch := rfl
@[simp] theorem withFetchWord_trace (s : State) (nbits w : Nat) : (s.withFetchWord nbits w).trace = s.trace := rfl
@[simp] theorem withFetchWord_chain (s : State) (nbits w : Nat) : (s.withFetchWord nbits w).chain = s.chain := rfl
@[simp] theorem withFetchWord_out (s : State) (nbits w : Nat) : (s.withFetchWord nbits w).out = s.out := rfl
@[simp] theorem withFetchWord_policy (s : State) (nbits w : Nat) : (s.withFetchWord nbits w).policy = s.policy := rfl
@[simp] theorem withFetchWord_link (s : State) (nbits w : Nat) : (s.withFetchWord nbits w).link = s.link := rfl
@[simp] theorem withFetchWord_events (s : State) (nbits w : Nat) : (s.withFetchWord nbits w).events = .word (BitVec.ofNat 32 w) s.inputs :: s.events := rfl
@[simp] theorem withFetchWord_inputs (s : State) (nbits w : Nat) : (s.withFetchWord nbits w).inputs = s.inputs := rfl
@[simp] theorem withFetchWord_draws (s : State) (nbits w : Nat) : (s.withFetchWord nbits w).draws = s.draws := rfl

/-! ## Power-on reset and State.reset -/

/-- State.reset is what power-on reset makes of any state in which the environment has nothing ready. -/
theorem reset_eq_powerOn : State.reset = powerOn Config.powerUpChain Config.powerUpOut State.reset := rfl

/-- The wires of a state put back change nothing. -/
@[simp] theorem putWires_wiresOf (s : State) : putWires (wiresOf s) s = s := rfl

@[simp] theorem wiresOf_putWires (w : Wires) (s : State) : wiresOf (putWires w s) = w := rfl

@[simp] theorem wiresOf_powerOn (chain out : Frame) (s : State) :
    wiresOf (powerOn chain out s) = ⟨false, false, false, chain, out⟩ := rfl

end Sys2Proof.Machine
end

