-- ==== Sys2Proof/Laws/Ops.lean ====
section
/-! SUPPORT. What each shared operation can do, said once: the halt check, the end of an operation, taking the
environment's next event, and the samples. -/

namespace Sys2Proof.Machine

/-! ## The halt check and the end of an operation -/

theorem whenRunning_of_running {body : State → Outcome State Fault Refusal} {s : State} (h : s.flt = 0) :
    whenRunning body s = body s := if_pos h

theorem whenRunning_of_halted {body : State → Outcome State Fault Refusal} {s : State} (h : s.flt ≠ 0) :
    whenRunning body s = .next s := if_neg h

/-- If a checked operation answers a next state, either the core was halted and nothing changed, or it was running and
the body answered. -/
theorem whenRunning_next {body : State → Outcome State Fault Refusal} {s t : State} (h : whenRunning body s = .next t) :
    (s.flt ≠ 0 ∧ t = s) ∨ (s.flt = 0 ∧ body s = .next t) := by
  by_cases hs : s.flt = 0
  · exact .inr ⟨hs, by rwa [whenRunning_of_running hs] at h⟩
  · rw [whenRunning_of_halted hs] at h
    exact .inl ⟨hs, (Host.Outcome.next.inj h).symm⟩

@[simp] theorem finish_ok {α : Type} (v : α) (effect : α → State) (s : State) :
    finish (.ok v) effect s = .next (effect v) := rfl

@[simp] theorem finish_error {α : Type} (cause : FaultCause) (effect : α → State) (s : State) :
    finish (.error cause) effect s = .next { s with flt := faultCode cause } := rfl

/-- An operation ends with its effect, or with FLT set and nothing else changed. -/
theorem finish_next {α : Type} {value : Except FaultCause α} {effect : α → State} {s t : State}
    (h : finish value effect s = .next t) :
    (∃ v, value = .ok v ∧ t = effect v) ∨ (∃ cause, value = .error cause ∧ t = { s with flt := faultCode cause }) := by
  cases value with
  | ok v => exact .inl ⟨v, rfl, (Host.Outcome.next.inj h).symm⟩
  | error cause => exact .inr ⟨cause, rfl, (Host.Outcome.next.inj h).symm⟩

theorem faultCode_ne_zero (cause : FaultCause) : faultCode cause ≠ 0 := by cases cause <;> decide

@[simp] theorem causeOf_faultCode (cause : FaultCause) : causeOf (faultCode cause) = some cause := by
  cases cause <;> rfl

theorem causeOf_eq_none {flt : BitVec 2} : causeOf flt = none ↔ flt = 0 := by revert flt; decide

/-! ## The environment -/

theorem takeEvent_cons (s : State) (event : Event) (rest : List Event) (h : s.events = event :: rest) :
    takeEvent s = (event, { s with events := rest }) := by
  simp [takeEvent, h]

/-- Taking the next event changes what the environment has ready, and nothing of the core. -/
theorem takeEvent_snd (s : State) :
    (takeEvent s).2 = { s with events := (takeEvent s).2.events, draws := (takeEvent s).2.draws } := by
  unfold takeEvent
  cases s.events <;> rfl

@[simp] theorem takeEvent_withFetchWord (s : State) (nbits w : Nat) :
    takeEvent (s.withFetchWord nbits w) = (.word (BitVec.ofNat 32 w) s.inputs, s) := by
  simp [takeEvent, State.withFetchWord]

@[simp] theorem sample_some {α : Type} (v : α) (free : Nat → α) (s : State) : sample (some v) free s = (v, s) := rfl

@[simp] theorem sample_none {α : Type} (free : Nat → α) (s : State) :
    sample none free s = (free s.draws, { s with draws := s.draws + 1 }) := rfl

/-- A sample changes the draw counter, and nothing else. -/
theorem sample_snd {α : Type} (offered : Option α) (free : Nat → α) (s : State) :
    (sample offered free s).2 = { s with draws := (sample offered free s).2.draws } := by
  cases offered <;> rfl

theorem sampleResetN_snd (s : State) : (sampleResetN s).2 = { s with draws := (sampleResetN s).2.draws } :=
  sample_snd ..

theorem sampleModeN_snd (s : State) : (sampleModeN s).2 = { s with draws := (sampleModeN s).2.draws } :=
  sample_snd ..

theorem samplePot_snd (s : State) (P : Params) : (samplePot s P).2 = { s with draws := (samplePot s P).2.draws } :=
  sample_snd ..

end Sys2Proof.Machine
end

