-- ==== Sys2Proof/Laws/Params.lean ====
section
/-! SUPPORT. The parameters at their defaults: each field's value, what the parametrised definitions come to there, and
that the core with the default parameters is the machine itself. -/

namespace Sys2Proof.Machine

@[simp] theorem standard_esWidth : standard.esWidth = 13 := rfl
@[simp] theorem standard_esModulus : standard.esModulus = 6000 := rfl
@[simp] theorem standard_numDigits : standard.numDigits = 4 := rfl
@[simp] theorem standard_segRom : standard.segRom = segTable := rfl
@[simp] theorem standard_selRom : standard.selRom = selTable := rfl
@[simp] theorem standard_dpMask : standard.dpMask = 0x7F := rfl
@[simp] theorem standard_blank : standard.blank = 0xFF := rfl
@[simp] theorem standard_vrefCv : standard.vrefCv = 330 := rfl
@[simp] theorem standard_adcBits : standard.adcBits = 16 := rfl
@[simp] theorem standard_adcFullScale : standard.adcFullScale = 65535 := rfl
@[simp] theorem standard_cascadeOrder : standard.cascadeOrder = Config.cascadeOrder := rfl
@[simp] theorem standard_frameBits : standard.frameBits = 16 := rfl

/-- A 16-bit port delivers every code whole. -/
@[simp] theorem portCode_standard (c : Code) : portCode c = c := by
  rw [portCode, standard_adcBits, Nat.mod_eq_of_lt c.isLt, BitVec.ofNat_toNat, BitVec.setWidth_eq]

/-- With four digits the position advances as a 2-bit number does. -/
@[simp] theorem nextPosition_standard (ad : Position) : nextPosition ad = ad + 1 := by
  revert ad; decide

/-- With 13 bits the counter advances as a 13-bit number does, but for its wrap at 6000. -/
theorem nextSecond_standard (es : Elapsed) : nextSecond es = if es.toNat = 5999 then 0 else es + 1 := by
  have h : BitVec.ofNat 13 ((es.toNat + 1) % 2 ^ 13) = es + 1 := by
    apply BitVec.eq_of_toNat_eq
    simp [BitVec.toNat_add]
  rw [nextSecond, standard_esWidth, h]
  rfl

/-- In range, a second more counts modulo 6000. -/
theorem toNat_nextSecond {es : Elapsed} (h : es.toNat < 6000) : (nextSecond es).toNat = (es.toNat + 1) % 6000 := by
  rw [nextSecond_standard]
  split
  · simp_all
  · rw [BitVec.toNat_add]; simp; omega

/-- The core with the default parameters is the machine. -/
theorem execFor_standard (i : Instr) (s : State) : execFor i s = exec i s := by cases i <;> rfl

theorem stepFor_standard (s : State) : stepFor s = step s := by
  simp only [stepFor, step, execEvent, execWord, execFor_standard]
  rcases takeEvent s with ⟨_ | _, _⟩ <;> rfl

end Sys2Proof.Machine
end

