-- ==== Sys2Proof/Laws/Renderer.lean ====
section
/-! SUPPORT. The values of the table lookups and of the renderer where they are defined. -/

namespace Sys2Proof.Machine

/-- The segment byte of a digit below ten, and the fault from ten on. -/
theorem segROM_eq (d : Digit) :
    segROM d = if d.toNat < 10 then .ok (segTable.getD d.toNat 0) else .error .digitRange := by
  revert d; decide

/-- A digit below ten reaches its own table entry. -/
theorem segEntry_of_lt {k : Nat} (h : k < 10) : segEntry k = .ok (segTable.getD k 0) := by
  revert k; decide

/-- A digit for which a table has an entry reaches it, whatever the parameters. -/
theorem segEntry_of_getElem? {k : Nat} {b : Byte} {P : Params} (hk : k ≤ 9) (h : P.segRom[k]? = some b) :
    segEntry k P = .ok b := by
  simp [segEntry, hk, h]

/-- An index of ten or more faults, whatever the parameters. -/
theorem segEntry_of_ge {k : Nat} (P : Params) (h : 10 ≤ k) : segEntry k P = .error .digitRange :=
  if_neg (by omega)

theorem elapsedInRange_of_lt {e : Elapsed} (h : e.toNat < 6000) : elapsedInRange e = .ok e.toNat := if_pos h

theorem elapsedInRange_of_ge {e : Elapsed} (h : 6000 ≤ e.toNat) : elapsedInRange e = .error .operandRange :=
  if_neg (Nat.not_lt.mpr h)

/-- The segment pattern of a position in timer mode, in range. -/
theorem timerDigit_of_lt (p : Position) {e : Elapsed} (h : e.toNat < 6000) :
    timerDigit p e = .ok
      (if p = 0 then segTable.getD (e.toNat / 60 / 10) 0
       else if p = 1 then segTable.getD (e.toNat / 60 % 10) 0 &&& 0x7F
       else if p = 2 then segTable.getD (e.toNat % 60 / 10) 0
       else segTable.getD (e.toNat % 60 % 10) 0) := by
  have h0 : e.toNat / 60 / 10 < 10 := by omega
  have h1 : e.toNat / 60 % 10 < 10 := by omega
  have h2 : e.toNat % 60 / 10 < 10 := by omega
  have h3 : e.toNat % 60 % 10 < 10 := by omega
  unfold timerDigit
  rw [elapsedInRange_of_lt h]
  simp only [bind, Except.bind, segEntry_of_lt h0, segEntry_of_lt h1, segEntry_of_lt h2, segEntry_of_lt h3]
  have hp : p = 0 ∨ p = 1 ∨ p = 2 ∨ p = 3 := by revert p; decide
  rcases hp with rfl | rfl | rfl | rfl <;> rfl

theorem timerDigit_of_ge (p : Position) {e : Elapsed} (h : 6000 ≤ e.toNat) :
    timerDigit p e = .error .operandRange := by
  simp [timerDigit, elapsedInRange_of_ge h, bind, Except.bind]

/-- The centivolts of a code never pass full scale. -/
theorem centivolts_le (c : Code) : centivolts c ≤ 330 := by
  have h := c.isLt
  simp only [centivolts, standard_vrefCv, standard_adcFullScale]
  omega

/-- The segment pattern of a position in voltmeter mode. It is defined for every code. -/
theorem voltDigit_eq (p : Position) (c : Code) :
    voltDigit p c = .ok
      (if p = 0 then segTable.getD (centivolts c / 100) 0 &&& 0x7F
       else if p = 1 then segTable.getD (centivolts c % 100 / 10) 0
       else if p = 2 then segTable.getD (centivolts c % 100 % 10) 0
       else 0xFF) := by
  have h := centivolts_le c
  have h0 : centivolts c / 100 < 10 := by omega
  have h1 : centivolts c % 100 / 10 < 10 := by omega
  have h2 : centivolts c % 100 % 10 < 10 := by omega
  unfold voltDigit
  simp only [segEntry_of_lt h0, segEntry_of_lt h1, segEntry_of_lt h2]
  have hp : p = 0 ∨ p = 1 ∨ p = 2 ∨ p = 3 := by revert p; decide
  rcases hp with rfl | rfl | rfl | rfl <;> rfl

/-- The renderer is defined wherever ES is in range. -/
theorem renderDigit_ok (mode : Mode) (p : Position) {e : Elapsed} (c : Code) (h : e.toNat < 6000) :
    ∃ b, renderDigit mode p e c = .ok b := by
  cases mode with
  | timer => exact ⟨_, timerDigit_of_lt p h⟩
  | voltmeter => exact ⟨_, voltDigit_eq p c⟩

end Sys2Proof.Machine
end

