-- ==== Sys2Proof/Laws/Transport.lean ====
section
/-! SUPPORT. What driving the pins does: a list of pin writes on a state is the same list on its wires, and one frame
leaves the chain and its outputs holding that frame. -/

namespace Sys2Proof.Machine

@[simp] theorem replay_nil (w : Wires) : replay [] w = w := rfl

@[simp] theorem replay_cons (e : PinEvent) (es : List PinEvent) (w : Wires) :
    replay (e :: es) w = replay es (driveWire e w) := rfl

theorem replay_append (es es' : List PinEvent) (w : Wires) : replay (es ++ es') w = replay es' (replay es w) :=
  List.foldl_append ..

@[simp] theorem boardWires_linked {s : State} (h : s.link = true) (e : PinEvent) :
    boardWires e s = driveWire e (wiresOf s) := by
  simp [boardWires, h]

theorem boardWires_unlinked {s : State} (h : s.link = false) (e : PinEvent) :
    boardWires e s =
      { driveWire e (wiresOf s) with chain := Config.freeChain s.draws, out := Config.freeOut s.draws } := by
  simp [boardWires, h]

/-- A list of pin writes touches only the pins, TRACE, the chain and the draw counter, with the link or without. -/
theorem emitAll_frame (es : List PinEvent) (s : State) :
    emitAll es s =
      { s with
        data := (emitAll es s).data, clock := (emitAll es s).clock, latch := (emitAll es s).latch,
        chain := (emitAll es s).chain, out := (emitAll es s).out, draws := (emitAll es s).draws,
        trace := s.trace ++ es } := by
  induction es generalizing s with
  | nil => simp [emitAll]
  | cons e es ih =>
    have h : emitAll (e :: es) s = emitAll es (emit e s) := rfl
    rw [h, ih]
    simp [emit, putWires]

/-- A list of pin writes drives the wires and is appended to TRACE; with the link there, nothing else changes. -/
theorem emitAll_eq (es : List PinEvent) {s : State} (hl : s.link = true) :
    emitAll es s = { putWires (replay es (wiresOf s)) s with trace := s.trace ++ es } := by
  induction es generalizing s with
  | nil => simp [emitAll, putWires, wiresOf]
  | cons e es ih =>
    have h : emitAll (e :: es) s = emitAll es (emit e s) := rfl
    rw [h, ih (by simpa using hl)]
    simp [emit, putWires, wiresOf, hl]

/-- What a pin write does to the pins does not depend on the chain, so a list of pin writes leaves the same pins. -/
theorem replay_pins (es : List PinEvent) {w v : Wires} (hd : w.data = v.data) (hc : w.clock = v.clock)
    (hl : w.latch = v.latch) :
    (replay es w).data = (replay es v).data ∧ (replay es w).clock = (replay es v).clock ∧
      (replay es w).latch = (replay es v).latch := by
  induction es generalizing w v with
  | nil => exact ⟨hd, hc, hl⟩
  | cons e es ih =>
    rcases e with ⟨_ | _ | _, l⟩ <;>
      exact ih (by simp [driveWire, hd]) (by simp [driveWire, hc]) (by simp [driveWire, hl])

/-- Without the link, pin writes leave the pins and TRACE as with it, and CHAIN and OUT at the last write's draws. -/
theorem emitAll_unlinked (es : List PinEvent) (e : PinEvent) {s : State} (hl : s.link = false) :
    emitAll (es ++ [e]) s =
      { s with
        data := (replay (es ++ [e]) (wiresOf s)).data, clock := (replay (es ++ [e]) (wiresOf s)).clock,
        latch := (replay (es ++ [e]) (wiresOf s)).latch, trace := s.trace ++ (es ++ [e]),
        chain := Config.freeChain (s.draws + es.length), out := Config.freeOut (s.draws + es.length),
        draws := s.draws + (es.length + 1) } := by
  induction es generalizing s with
  | nil => simp [emitAll, emit, boardWires_unlinked hl, putWires, hl]
  | cons d es ih =>
    have h : emitAll (d :: es ++ [e]) s = emitAll (es ++ [e]) (emit d s) := rfl
    have hp := replay_pins (es ++ [e]) (w := wiresOf (emit d s)) (v := driveWire d (wiresOf s))
      (by simp [wiresOf, boardWires_unlinked hl]) (by simp [wiresOf, boardWires_unlinked hl])
      (by simp [wiresOf, boardWires_unlinked hl])
    rw [h, ih (by simpa using hl), hp.1, hp.2.1, hp.2.2]
    have hd : (emit d s).draws = s.draws + 1 := by simp [hl]
    rw [hd, show s.draws + 1 + es.length = s.draws + (d :: es).length by simp; omega,
      show s.draws + 1 + (es.length + 1) = s.draws + ((d :: es).length + 1) by simp; omega]
    simp [emit, putWires, replay]

/-- One shift of the chain, bit by bit. -/
theorem getLsbD_shiftIn (chain : Frame) (bit : Level) (i : Nat) (h : i < 16) :
    (shiftIn chain bit).getLsbD i = if i = 0 then bit else chain.getLsbD (i - 1) := by
  unfold shiftIn
  rw [BitVec.getLsbD_append]
  by_cases hi : i = 0
  · subst hi; cases bit <;> rfl
  · have h1 : ¬ i < 1 := by omega
    have h2 : i - 1 < 15 := by omega
    simp [hi, h1, h2]

/-- The bits of a frame, clocked in: the chain moves up and the frame's low bits follow; CLOCK ends high, LATCH and OUT
do not move. -/
theorem replay_bitEvents (f : Frame) (n : Nat) (w : Wires) :
    (replay (bitEvents f n) w).latch = w.latch ∧ (replay (bitEvents f n) w).out = w.out ∧
    (0 < n → (replay (bitEvents f n) w).clock = true ∧ (replay (bitEvents f n) w).data = f.getLsbD 0) ∧
    ∀ i < 16, (replay (bitEvents f n) w).chain.getLsbD i =
      if i < n then f.getLsbD i else w.chain.getLsbD (i - n) := by
  induction n generalizing w with
  | zero => simp [bitEvents]
  | succ n ih =>
    obtain ⟨hl, ho, hp, hc⟩ :=
      ih ⟨f.getLsbD n, true, w.latch, shiftIn w.chain (f.getLsbD n), w.out⟩
    have h : replay (bitEvents f (n + 1)) w =
        replay (bitEvents f n) ⟨f.getLsbD n, true, w.latch, shiftIn w.chain (f.getLsbD n), w.out⟩ := by
      simp [bitEvents, driveWire]
    rw [h]
    refine ⟨hl, ho, fun _ => ?_, fun i hi => ?_⟩
    · cases n with
      | zero => simp [bitEvents]
      | succ n => exact hp (Nat.succ_pos n)
    · rw [hc i hi]
      by_cases h1 : i < n
      · simp [h1, Nat.lt_succ_of_lt h1]
      · rw [if_neg h1, getLsbD_shiftIn _ _ _ (by omega)]
        by_cases h2 : i = n
        · subst h2; simp
        · have h3 : i - n ≠ 0 := by omega
          have h4 : ¬ i < n + 1 := by omega
          simp only [h3, h4, if_false]
          congr 1

/-- One whole frame: whatever the wires held, they end with the frame in the chain and at its outputs. -/
theorem replay_frameEvents (f : Frame) (w : Wires) :
    replay (frameEvents f) w = ⟨f.getLsbD 0, true, true, f, f⟩ := by
  have h : replay (frameEvents f) w =
      driveWire ⟨.latch, true⟩ (replay (bitEvents f 16) (driveWire ⟨.latch, false⟩ w)) := by
    simp [frameEvents, replay_append]
  obtain ⟨hl, -, hp, hc⟩ := replay_bitEvents f 16 (driveWire ⟨.latch, false⟩ w)
  obtain ⟨hk, hd⟩ := hp (by decide)
  have hchain : (replay (bitEvents f 16) (driveWire ⟨.latch, false⟩ w)).chain = f := by
    refine BitVec.eq_of_getLsbD_eq fun i hi => ?_
    rw [hc i hi]
    exact if_pos hi
  have hlow : (replay (bitEvents f 16) (driveWire ⟨.latch, false⟩ w)).latch = false := by
    rw [hl]; rfl
  rw [h]
  generalize replay (bitEvents f 16) (driveWire ⟨.latch, false⟩ w) = v at hk hd hchain hlow
  simp [driveWire, hk, hd, hchain, hlow]

theorem length_bitEvents (f : Frame) (n : Nat) : (bitEvents f n).length = 3 * n := by
  induction n with
  | zero => rfl
  | succ n ih => simp [bitEvents, ih]; omega

/-- A frame of any number of bits is three pin writes a bit and two for LATCH. -/
theorem length_frameEvents_params (f : Frame) (P : Params) : (frameEvents f P).length = 2 + 3 * P.frameBits := by
  simp [frameEvents, length_bitEvents]
  omega

/-- A frame is 50 pin writes. -/
theorem length_frameEvents (f : Frame) : (frameEvents f).length = 50 := by
  simp [frameEvents, length_bitEvents]

/-- What Serialize does, whole: on a board with the link, and on one without (R165, I3). -/
theorem serialize_eq (segments select : Byte) (s : State) :
    serialize segments select s =
      { s with
        data := (frameOf segments select).getLsbD 0, clock := true, latch := true,
        chain := if s.link then frameOf segments select else Config.freeChain (s.draws + 49),
        out := if s.link then frameOf segments select else Config.freeOut (s.draws + 49),
        draws := if s.link then s.draws else s.draws + 50,
        trace := s.trace ++ frameEvents (frameOf segments select) } := by
  unfold serialize
  generalize frameOf segments select = f
  rcases Bool.eq_false_or_eq_true s.link with hl | hl
  · rw [emitAll_eq _ hl, replay_frameEvents]
    simp [putWires, hl]
  · have hf : frameEvents f = (⟨.latch, false⟩ :: bitEvents f 16) ++ [⟨.latch, true⟩] := rfl
    rw [hf, emitAll_unlinked _ _ hl, ← hf, replay_frameEvents]
    simp [length_bitEvents, hl]

/-- A frame, bit by bit. -/
theorem getLsbD_frameOf (segments select : Byte) (i : Nat) :
    (frameOf segments select).getLsbD i = if i < 8 then select.getLsbD i else segments.getLsbD (i - 8) :=
  BitVec.getLsbD_append ..

@[simp] theorem segmentByte_frameOf (segments select : Byte) : segmentByte (frameOf segments select) = segments := by
  refine BitVec.eq_of_getLsbD_eq fun i hi => ?_
  have h : ¬ 8 + i < 8 := by omega
  rw [segmentByte, BitVec.getLsbD_extractLsb', getLsbD_frameOf, if_neg h, Nat.add_sub_cancel_left]
  simp [hi]

@[simp] theorem selectByte_frameOf (segments select : Byte) : selectByte (frameOf segments select) = select := by
  refine BitVec.eq_of_getLsbD_eq fun i hi => ?_
  rw [selectByte, BitVec.getLsbD_extractLsb', Nat.zero_add, getLsbD_frameOf, if_pos hi]
  simp [hi]

end Sys2Proof.Machine
end

