-- ==== Sys2Proof/Laws/Control.lean ====
section
/-! SUPPORT. What one STEP can do, phase by phase, and what any operation can do to a running core. -/

namespace Sys2Proof.Machine

/-- The sampling of a refresh writes VH and the draw counter, and nothing else. -/
theorem holdVoltage_eq (s : State) (P : Params := standard) :
    holdVoltage s P =
      { s with vh := (holdVoltage s P).vh, draws := (holdVoltage s P).draws } := by
  unfold holdVoltage
  split
  · have h := samplePot_snd s P
    generalize samplePot s P = r at h
    obtain ⟨c, t⟩ := r
    simp only at h ⊢
    rw [h]
  · rfl

/-- A refresh that takes no sample changes nothing. -/
theorem holdVoltage_of_held {s : State} (h : samplesPot s.policy s.ad = false) : holdVoltage s = s := by
  simp [holdVoltage, h]

/-- When a refresh samples POT (R253). -/
theorem samplesPot_iff {policy : SamplePolicy} {ad : Position} :
    samplesPot policy ad = true ↔ policy = .perDigit ∨ ad = 0 := by
  simp [samplesPot]

/-- A refresh that samples a POT on which a code is offered holds that code. -/
theorem holdVoltage_of_offered {s : State} {code : Code} (h : samplesPot s.policy s.ad = true)
    (hc : s.inputs.pot = some code) : holdVoltage s = { s with vh := code } := by
  simp [holdVoltage, h, samplePot, hc]

theorem holdVoltage_of_offered_params {s : State} {code : Code} (P : Params) (h : samplesPot s.policy s.ad = true)
    (hc : s.inputs.pot = some code) : holdVoltage s P = { s with vh := portCode code P } := by
  simp [holdVoltage, h, samplePot, hc]

/-- A refresh that samples a POT on which nothing is offered holds a free value. -/
theorem holdVoltage_of_free {s : State} (h : samplesPot s.policy s.ad = true) (hc : s.inputs.pot = none) :
    holdVoltage s = { s with vh := Config.freePot s.draws, draws := s.draws + 1 } := by
  simp [holdVoltage, h, samplePot, hc]

theorem execStep_p1 {s : State} (hf : s.flt = 0) (hp : s.ph = .p1) : execStep s = stepP1 s := by
  simp [execStep, whenRunning_of_running hf, hp]

theorem execStep_p2 {s : State} (hf : s.flt = 0) (hp : s.ph = .p2) : execStep s = stepP2 s := by
  simp [execStep, whenRunning_of_running hf, hp]

theorem execStep_p3 {s : State} (hf : s.flt = 0) (hp : s.ph = .p3) : execStep s = stepP3 s := by
  simp [execStep, whenRunning_of_running hf, hp]

/-- Phase P1, whole. -/
theorem stepP1_eq (s : State) : stepP1 s = .next
    { (sampleResetN s).2 with es := if pressed (sampleResetN s).1 then 0 else s.es, ph := .p2 } := by
  unfold stepP1 sampleResetN
  cases s.inputs.resetN <;> rfl

/-- Phase P2, whole. -/
theorem stepP2_eq (s : State) : stepP2 s = .next
    { (sampleModeN s).2 with mode := modeOf (pressed (sampleModeN s).1), ph := .p3 } := rfl

/-- A refresh, whole, where the renderer gives a pattern. -/
theorem stepP3_refresh {s : State} (hpr : s.pr = true) {seg : Byte}
    (hseg : renderDigit s.mode s.ad s.es (holdVoltage (clearPending s)).vh = .ok seg) :
    stepP3 s = .next
      { s with
        pr := false, vh := (holdVoltage (clearPending s)).vh,
        draws := if s.link then (holdVoltage (clearPending s)).draws else (holdVoltage (clearPending s)).draws + 50,
        data := (frameOf seg (selROM s.ad)).getLsbD 0, clock := true, latch := true,
        chain := if s.link then frameOf seg (selROM s.ad)
          else Config.freeChain ((holdVoltage (clearPending s)).draws + 49),
        out := if s.link then frameOf seg (selROM s.ad)
          else Config.freeOut ((holdVoltage (clearPending s)).draws + 49),
        trace := s.trace ++ frameEvents (frameOf seg (selROM s.ad)), ad := s.ad + 1, ph := .p1 } := by
  have h := holdVoltage_eq (clearPending s)
  generalize hv : (holdVoltage (clearPending s)).vh = v at *
  generalize (holdVoltage (clearPending s)).draws = d at *
  unfold stepP3
  rw [if_pos hpr, h]
  simp only [clearPending_mode, clearPending_ad, clearPending_es, hseg, finish_ok, serialize_eq, nextPosition_standard]
  rfl

theorem stepP3_idle {s : State} (hpr : s.pr = false) : stepP3 s = .next { s with ph := .p1 } := by
  simp [stepP3, hpr]

/-- STEP on a running core whose ES is in range is one of these four. -/
theorem execStep_cases {s t : State} (hf : s.flt = 0) (he : s.es.toNat < 6000) (h : execStep s = .next t) :
    (s.ph = .p1 ∧ t = { (sampleResetN s).2 with
        es := if pressed (sampleResetN s).1 then 0 else s.es, ph := .p2 }) ∨
    (s.ph = .p2 ∧ t = { (sampleModeN s).2 with mode := modeOf (pressed (sampleModeN s).1), ph := .p3 }) ∨
    (s.ph = .p3 ∧ s.pr = false ∧ t = { s with ph := .p1 }) ∨
    (s.ph = .p3 ∧ s.pr = true ∧ ∃ seg v d x y,
      renderDigit s.mode s.ad s.es v = .ok seg ∧
      t = { s with
        pr := false, vh := v, draws := d,
        data := (frameOf seg (selROM s.ad)).getLsbD 0, clock := true, latch := true,
        chain := x, out := y,
        trace := s.trace ++ frameEvents (frameOf seg (selROM s.ad)), ad := s.ad + 1, ph := .p1 } ∧
      (s.link = true → x = frameOf seg (selROM s.ad) ∧ y = frameOf seg (selROM s.ad))) := by
  rcases hp : s.ph with _ | _ | _
  · rw [execStep_p1 hf hp, stepP1_eq] at h
    exact .inl ⟨rfl, (Host.Outcome.next.inj h).symm⟩
  · rw [execStep_p2 hf hp, stepP2_eq] at h
    exact .inr (.inl ⟨rfl, (Host.Outcome.next.inj h).symm⟩)
  · rw [execStep_p3 hf hp] at h
    rcases Bool.eq_false_or_eq_true s.pr with hpr | hpr
    · obtain ⟨seg, hseg⟩ := renderDigit_ok s.mode s.ad (holdVoltage (clearPending s)).vh he
      rw [stepP3_refresh hpr hseg] at h
      exact .inr (.inr (.inr ⟨rfl, hpr, seg, _, _, _, _, hseg, (Host.Outcome.next.inj h).symm,
        fun hl => ⟨if_pos hl, if_pos hl⟩⟩))
    · rw [stepP3_idle hpr] at h
      exact .inr (.inr (.inl ⟨rfl, hpr, (Host.Outcome.next.inj h).symm⟩))

/-- A halted core takes no effect from any operation. -/
theorem exec_of_halted (i : Instr) {s : State} (h : s.flt ≠ 0) : exec i s = .next s := by
  cases i <;>
    simp only [exec, execSegenc, execSelenc, execSplitt, execSplitv, execRendt, execRendv, execWrite, execTick,
      execTreset, execTread, execRtick, execStep, whenRunning_of_halted h]

/-- An operation's end answers a next state. -/
theorem finish_answers_next {α : Type} (v : Except FaultCause α) (effect : α → State) (s : State) :
    ∃ t, finish v effect s = .next t := by
  cases v <;> exact ⟨_, rfl⟩

/-- STEP answers a next state. -/
theorem execStep_answers_next {s : State} (hf : s.flt = 0) : ∃ t, execStep s = .next t := by
  rcases hp : s.ph with _ | _ | _
  · rw [execStep_p1 hf hp, stepP1_eq]; exact ⟨_, rfl⟩
  · rw [execStep_p2 hf hp, stepP2_eq]; exact ⟨_, rfl⟩
  · rw [execStep_p3 hf hp]
    unfold stepP3
    split
    · exact finish_answers_next ..
    · exact ⟨_, rfl⟩

/-- What the finished operation of a query can be: a result, or a fault that changes nothing else. -/
theorem finish_result_next {n : Nat} {value : Except FaultCause (BitVec n)} {s t : State}
    (h : finish value (fun b => setResult b s) s = .next t) :
    (∃ b, value = .ok b ∧ t = { s with res := b.setWidth 32 }) ∨
    (∃ cause, value = .error cause ∧ t = { s with flt := faultCode cause }) :=
  finish_next h

/-- What an operation can do to a running core, all operations together: it writes RES alone; or it
faults and sets FLT alone; or it sends a frame; or it writes ES alone; or PR alone; or it is a
STEP, whose cases are those of execStep_cases. -/
theorem exec_cases {i : Instr} {s t : State} (hf : s.flt = 0) (h : exec i s = .next t) :
    ((i = .tread ∨ (∃ d, i = .segenc d) ∨ (∃ p, i = .selenc p) ∨ (∃ e, i = .splitt e) ∨ (∃ c, i = .splitv c) ∨
        (∃ p e, i = .rendt p e) ∨ (∃ p c, i = .rendv p c)) ∧ ∃ r, t = { s with res := r }) ∨
    (((∃ d, i = .segenc d) ∨ (∃ e, i = .splitt e) ∨ (∃ p e, i = .rendt p e)) ∧
        ∃ cause, t = { s with flt := faultCode cause }) ∨
    (∃ a b, i = .write a b ∧ t = { s with
        data := (frameOf a b).getLsbD 0, clock := true, latch := true,
        chain := if s.link then frameOf a b else Config.freeChain (s.draws + 49),
        out := if s.link then frameOf a b else Config.freeOut (s.draws + 49),
        draws := if s.link then s.draws else s.draws + 50,
        trace := s.trace ++ frameEvents (frameOf a b) }) ∨
    (i = .tick ∧ t = { s with es := nextSecond s.es }) ∨
    (i = .treset ∧ t = { s with es := 0 }) ∨
    (i = .rtick ∧ t = { s with pr := true }) ∨
    (i = .step ∧ execStep s = .next t) := by
  cases i with
  | segenc d =>
    simp only [exec, execSegenc, whenRunning_of_running hf] at h
    rcases finish_result_next h with ⟨b, -, ht⟩ | ⟨cause, -, ht⟩
    · exact .inl ⟨by simp, _, ht⟩
    · exact .inr (.inl ⟨by simp, _, ht⟩)
  | selenc p =>
    simp only [exec, execSelenc, whenRunning_of_running hf] at h
    exact .inl ⟨by simp, _, (Host.Outcome.next.inj h).symm⟩
  | splitt e =>
    simp only [exec, execSplitt, whenRunning_of_running hf] at h
    rcases finish_next h with ⟨b, -, ht⟩ | ⟨cause, -, ht⟩
    · exact .inl ⟨by simp, _, ht⟩
    · exact .inr (.inl ⟨by simp, _, ht⟩)
  | splitv c =>
    simp only [exec, execSplitv, whenRunning_of_running hf] at h
    exact .inl ⟨by simp, _, (Host.Outcome.next.inj h).symm⟩
  | rendt p e =>
    simp only [exec, execRendt, whenRunning_of_running hf] at h
    rcases finish_result_next h with ⟨b, -, ht⟩ | ⟨cause, -, ht⟩
    · exact .inl ⟨by simp, _, ht⟩
    · exact .inr (.inl ⟨by simp, _, ht⟩)
  | rendv p c =>
    simp only [exec, execRendv, whenRunning_of_running hf, voltDigit_eq, finish_ok] at h
    exact .inl ⟨by simp, _, (Host.Outcome.next.inj h).symm⟩
  | write a b =>
    simp only [exec, execWrite, whenRunning_of_running hf, serialize_eq] at h
    exact .inr (.inr (.inl ⟨a, b, rfl, (Host.Outcome.next.inj h).symm⟩))
  | tick =>
    simp only [exec, execTick, whenRunning_of_running hf] at h
    exact .inr (.inr (.inr (.inl ⟨rfl, (Host.Outcome.next.inj h).symm⟩)))
  | treset =>
    simp only [exec, execTreset, whenRunning_of_running hf] at h
    exact .inr (.inr (.inr (.inr (.inl ⟨rfl, (Host.Outcome.next.inj h).symm⟩))))
  | tread =>
    simp only [exec, execTread, whenRunning_of_running hf] at h
    exact .inl ⟨by simp, _, (Host.Outcome.next.inj h).symm⟩
  | rtick =>
    simp only [exec, execRtick, whenRunning_of_running hf] at h
    exact .inr (.inr (.inr (.inr (.inr (.inl ⟨rfl, (Host.Outcome.next.inj h).symm⟩)))))
  | step => exact .inr (.inr (.inr (.inr (.inr (.inr ⟨rfl, h⟩)))))

end Sys2Proof.Machine
end

