-- ==== Sys2Proof/Laws/Decode.lean ====
section
/-! SUPPORT. The opcode map as a decoder: its rows are told apart by their masks, so a word that selects a row decodes
by that row; and the bits of an encoded operation, field by field. -/

namespace Sys2Proof

theorem selects_iff (r : OpRow) (w : OpWord) : r.selects w = true ↔ w &&& r.mask = r.pattern := beq_iff_eq

/-- Two rows some word selects agree where both masks look. -/
theorem pattern_agree {r q : OpRow} {w : OpWord} (hr : r.selects w = true) (hq : q.selects w = true) :
    r.pattern &&& q.mask = q.pattern &&& r.mask := by
  rw [selects_iff] at hr hq
  rw [← hr, ← hq, BitVec.and_assoc, BitVec.and_assoc, BitVec.and_comm r.mask]

/-- The masks and the patterns of the rows, which tell any two rows apart. -/
theorem rows_told_apart : ∀ k (hk : k < opRows.length) j (hj : j < opRows.length),
    opRows[k].pattern &&& opRows[j].mask = opRows[j].pattern &&& opRows[k].mask → k = j := by
  have h : ∀ k j : Fin 12,
      (opRows.map OpRow.pattern)[k]! &&& (opRows.map OpRow.mask)[j]! =
        (opRows.map OpRow.pattern)[j]! &&& (opRows.map OpRow.mask)[k]! → k = j := by decide
  intro k hk j hj e
  have hk' : k < 12 := hk
  have hj' : j < 12 := hj
  have := h ⟨k, hk'⟩ ⟨j, hj'⟩ (by simpa [hk, hj, hk', hj'] using e)
  exact congrArg Fin.val this

/-- At most one row matches any word (R108). -/
theorem selected_row_unique {w : OpWord} {k j : Nat} (hk : k < opRows.length) (hj : j < opRows.length)
    (h : opRows[k].selects w = true) (h' : opRows[j].selects w = true) : k = j :=
  rows_told_apart k hk j hj (pattern_agree h h')

/-- A word that selects a row decodes to that row's operation. -/
theorem decode_of_selects {w : OpWord} {k : Nat} (hk : k < opRows.length) (h : opRows[k].selects w = true) :
    decode w = .ok (opRows[k].fields w) := by
  have hfind : opRows.find? (fun r => r.selects w) = some opRows[k] := by
    rw [List.find?_eq_some_iff_getElem]
    refine ⟨h, k, hk, rfl, fun j hj => ?_⟩
    by_contra hsel
    simp only [Bool.not_eq_true', Bool.not_eq_false] at hsel
    have := selected_row_unique hk (hj.trans hk) h hsel
    omega
  simp [decode, hfind]

/-- A word that decodes selects the row it decodes by. -/
theorem selects_of_decode {w : OpWord} {i : Instr} (h : decode w = .ok i) :
    ∃ r ∈ opRows, w &&& r.mask = r.pattern ∧ i = r.fields w := by
  unfold decode at h
  cases hf : opRows.find? (fun r => r.selects w) with
  | none => simp only [hf] at h; split at h <;> cases h
  | some r =>
    simp only [hf, Except.ok.injEq] at h
    exact ⟨r, List.mem_of_find?_eq_some hf, (selects_iff r w).mp (List.find?_some (p := fun q : OpRow => q.selects w) hf), h.symm⟩

/-! ## The bits of an encoded operation -/

theorem getLsbD_encode_segenc (d : Digit) (i : Nat) :
    (encode (.segenc d)).getLsbD i = (0x1#4 ++ 0#24 ++ d : BitVec (4 + 24 + 4)).getLsbD i := rfl

theorem getLsbD_encode_selenc (p : Position) (i : Nat) :
    (encode (.selenc p)).getLsbD i = (0x2#4 ++ 0#26 ++ p : BitVec (4 + 26 + 2)).getLsbD i := rfl

theorem getLsbD_encode_splitt (e : Elapsed) (i : Nat) :
    (encode (.splitt e)).getLsbD i = (0x3#4 ++ 0#15 ++ e : BitVec (4 + 15 + 13)).getLsbD i := rfl

theorem getLsbD_encode_splitv (c : Code) (i : Nat) :
    (encode (.splitv c)).getLsbD i = (0x4#4 ++ 0#12 ++ c : BitVec (4 + 12 + 16)).getLsbD i := rfl

theorem getLsbD_encode_rendt (p : Position) (e : Elapsed) (i : Nat) :
    (encode (.rendt p e)).getLsbD i = (0x5#4 ++ 0#2 ++ p ++ 0#11 ++ e : BitVec (4 + 2 + 2 + 11 + 13)).getLsbD i := rfl

theorem getLsbD_encode_rendv (p : Position) (c : Code) (i : Nat) :
    (encode (.rendv p c)).getLsbD i = (0x6#4 ++ 0#2 ++ p ++ 0#8 ++ c : BitVec (4 + 2 + 2 + 8 + 16)).getLsbD i := rfl

theorem getLsbD_encode_write (s t : Byte) (i : Nat) :
    (encode (.write s t)).getLsbD i = (0x7#4 ++ 0#12 ++ s ++ t : BitVec (4 + 12 + 8 + 8)).getLsbD i := rfl

end Sys2Proof
end

