-- ==== Sys2Proof/Laws/PerInstr.lean ====
section
/-! SUPPORT. What holds of every operation as syntax: it is well-formed, and its word selects its own row of the opcode
map (spec/30_encoding.md R108, R113). One lemma for each constructor. -/

namespace Sys2Proof.Laws

/-- A field's value fits the field. -/
theorem fits {n : Nat} (v : BitVec n) {m : Nat} (h : 2 ^ n = m + 1) : decide (v.toNat ≤ m) = true := by
  have := v.isLt
  simp only [decide_eq_true_eq]
  omega

end Sys2Proof.Laws

namespace Sys2Proof.Laws.EncodesItsRow

/-- The operation is well-formed, and its word selects its row of the opcode map. -/
def Statement (i : Instr) : Prop :=
  i.wellFormed = true ∧ ∃ r, opRows[i.rowIndex]? = some r ∧ encode i &&& r.mask = r.pattern

theorem segenc (d : Digit) : Statement (.segenc d) := by
  refine ⟨fits d (by decide), _, rfl, ?_⟩
  refine BitVec.eq_of_getLsbD_eq fun i hi => ?_
  rw [BitVec.getLsbD_and, getLsbD_encode_segenc]
  simp only [BitVec.getLsbD_append]
  interval_cases i <;> simp

theorem selenc (p : Position) : Statement (.selenc p) := by
  refine ⟨fits p (by decide), _, rfl, ?_⟩
  refine BitVec.eq_of_getLsbD_eq fun i hi => ?_
  rw [BitVec.getLsbD_and, getLsbD_encode_selenc]
  simp only [BitVec.getLsbD_append]
  interval_cases i <;> simp

theorem splitt (e : Elapsed) : Statement (.splitt e) := by
  refine ⟨fits e (by decide), _, rfl, ?_⟩
  refine BitVec.eq_of_getLsbD_eq fun i hi => ?_
  rw [BitVec.getLsbD_and, getLsbD_encode_splitt]
  simp only [BitVec.getLsbD_append]
  interval_cases i <;> simp

theorem splitv (c : Code) : Statement (.splitv c) := by
  refine ⟨fits c (by decide), _, rfl, ?_⟩
  refine BitVec.eq_of_getLsbD_eq fun i hi => ?_
  rw [BitVec.getLsbD_and, getLsbD_encode_splitv]
  simp only [BitVec.getLsbD_append]
  interval_cases i <;> simp

theorem rendt (p : Position) (e : Elapsed) : Statement (.rendt p e) := by
  refine ⟨Bool.and_eq_true_iff.mpr ⟨fits p (by decide), fits e (by decide)⟩, _, rfl, ?_⟩
  refine BitVec.eq_of_getLsbD_eq fun i hi => ?_
  rw [BitVec.getLsbD_and, getLsbD_encode_rendt]
  simp only [BitVec.getLsbD_append]
  interval_cases i <;> simp

theorem rendv (p : Position) (c : Code) : Statement (.rendv p c) := by
  refine ⟨Bool.and_eq_true_iff.mpr ⟨fits p (by decide), fits c (by decide)⟩, _, rfl, ?_⟩
  refine BitVec.eq_of_getLsbD_eq fun i hi => ?_
  rw [BitVec.getLsbD_and, getLsbD_encode_rendv]
  simp only [BitVec.getLsbD_append]
  interval_cases i <;> simp

theorem write (s t : Byte) : Statement (.write s t) := by
  refine ⟨Bool.and_eq_true_iff.mpr ⟨fits s (by decide), fits t (by decide)⟩, _, rfl, ?_⟩
  refine BitVec.eq_of_getLsbD_eq fun i hi => ?_
  rw [BitVec.getLsbD_and, getLsbD_encode_write]
  simp only [BitVec.getLsbD_append]
  interval_cases i <;> simp

theorem tick : Statement .tick := ⟨rfl, _, rfl, rfl⟩

theorem treset : Statement .treset := ⟨rfl, _, rfl, rfl⟩

theorem tread : Statement .tread := ⟨rfl, _, rfl, rfl⟩

theorem rtick : Statement .rtick := ⟨rfl, _, rfl, rfl⟩

theorem step : Statement .step := ⟨rfl, _, rfl, rfl⟩

end Sys2Proof.Laws.EncodesItsRow
end

