-- ==== Sys2Proof/Tests/Slice0.lean ====
section
/-! SUPPORT. Tests of the model. Expected values come from spec/95_test_vectors.md and from the patterns of
spec/30_encoding.md R106; a witness names the statement whose hypotheses it meets. -/

namespace Sys2Proof.Tests

open Sys2Proof.Machine Sys2Proof.Safety

/-- The state an outcome answers. -/
def after : Host.Outcome State Fault Refusal → Option State
  | .next t => some t
  | .fault _ => none
  | .refused _ => none

/-- The reset state with the external chips at 0xABCD (V2). -/
def start : State := { State.reset with chain := 0xABCD, out := 0xABCD }

/-- One step on a word. -/
def run (w : Nat) (s : State := start) : Option State := after (step (s.withFetchWord 32 w))

/-! ## Well-formedness: for each check a term it refuses (R113) -/

theorem test_ill_formed_segenc : (AsmOp.segenc 16).assemble = none := by decide
theorem test_ill_formed_selenc : (AsmOp.selenc 4).assemble = none := by decide
theorem test_ill_formed_splitt : (AsmOp.splitt 8192).assemble = none := by decide
theorem test_ill_formed_splitv : (AsmOp.splitv 65536).assemble = none := by decide
theorem test_ill_formed_rendt_p : (AsmOp.rendt 4 0).assemble = none := by decide
theorem test_ill_formed_rendt_e : (AsmOp.rendt 0 8192).assemble = none := by decide
theorem test_ill_formed_rendv_p : (AsmOp.rendv 4 0).assemble = none := by decide
theorem test_ill_formed_rendv_c : (AsmOp.rendv 0 65536).assemble = none := by decide
theorem test_ill_formed_write_s : (AsmOp.write 256 0).assemble = none := by decide
theorem test_ill_formed_write_t : (AsmOp.write 0 256).assemble = none := by decide
theorem test_well_formed_boundary : (AsmOp.rendt 3 8191).assemble = some (.rendt 3 8191) := by decide

/-! ## Decoding: words written out from the patterns of R106 -/

theorem test_decode_segenc : decodeTableWord 32 0b00010000000000000000000000001001 = some (.segenc 9) := by decide
theorem test_decode_selenc : decodeTableWord 32 0b00100000000000000000000000000010 = some (.selenc 2) := by decide
theorem test_decode_splitt : decodeTableWord 32 0b00110000000000000000000001111101 = some (.splitt 125) := by decide
theorem test_decode_splitv : decodeTableWord 32 0b01000000000000001000000000000001 = some (.splitv 0x8001) := by decide
theorem test_decode_rendt : decodeTableWord 32 0b01010010000000000001000000000011 = some (.rendt 2 0x1003) := by decide
theorem test_decode_rendv : decodeTableWord 32 0b01100001000000001000000000000001 = some (.rendv 1 0x8001) := by decide
theorem test_decode_write : decodeTableWord 32 0b01110000000000001100000011110001 = some (.write 0xC0 0xF1) := by decide
theorem test_decode_tick : decodeTableWord 32 0x80000000 = some .tick := by decide
theorem test_decode_treset : decodeTableWord 32 0x90000000 = some .treset := by decide
theorem test_decode_tread : decodeTableWord 32 0xA0000000 = some .tread := by decide
theorem test_decode_rtick : decodeTableWord 32 0xB0000000 = some .rtick := by decide
theorem test_decode_step : decodeTableWord 32 0xC0000000 = some .step := by decide
theorem test_decode_reserved_opcodes :
    [0x00000000, 0xD0000000, 0xE0000000, 0xF0000000, 0xFFFFFFFF].map (decodeTableWord 32) =
      [none, none, none, none, none] := by decide
theorem test_decode_reserved_bits :
    [0x10001FFF, 0x20000004, 0x3000FFFF, 0x5400007D, 0x80000001].map (decodeTableWord 32) =
      [none, none, none, none, none] := by decide

/-! ## One step each (V1 to V7) -/

theorem test_segenc : (run 0x10000002 { start with res := 0x12345678 }).map (·.res) = some 0xA4 := by decide
theorem test_segenc_fault : (run 0x1000000A).map (fun t => (t.flt, t.res)) = some (2, 0) := by decide
theorem test_selenc : (run 0x20000003).map (·.res) = some 0xF8 := by decide
theorem test_splitt : (run 0x3000176F).map (·.res) = some 0x3B639959 := by decide
theorem test_splitt_fault : (run 0x30001770).map (fun t => (t.flt, t.res)) = some (3, 0) := by decide
theorem test_splitv : (run 0x40007FFF).map (·.res) = some 0x00A40164 := by decide
theorem test_splitv_full : (run 0x4000FFFF).map (·.res) = some 0x014A0330 := by decide
theorem test_rendt : (run 0x5100007D).map (·.res) = some 0x24 := by decide
theorem test_rendt_fault : (run 0x53001770).map (fun t => (t.flt, t.res)) = some (3, 0) := by decide
theorem test_rendv : (run 0x60008000).map (·.res) = some 0x79 := by decide
theorem test_rendv_blank : (run 0x63008000).map (·.res) = some 0xFF := by decide
theorem test_write : (run 0x7000C0F1).map (fun t => (t.data, t.clock, t.latch, t.chain, t.out, t.trace.length)) =
    some (true, true, true, 0xC0F1, 0xC0F1, 50) := by decide
theorem test_write_bits : (run 0x7000C0F1).map (fun t => (t.trace.filter (fun e => e.pin = .data)).map (·.level)) =
    some [true, true, false, false, false, false, false, false, true, true, true, true, false, false, false, true] := by
  decide
theorem test_tick_wrap : (run 0x80000000 { start with es := 5999 }).map (·.es) = some 0 := by decide
theorem test_tick : (run 0x80000000 { start with es := 125 }).map (·.es) = some 126 := by decide
theorem test_treset : (run 0x90000000 { start with es := 4321, ad := 2 }).map (fun t => (t.es, t.ad)) = some (0, 2) := by
  decide
theorem test_tread : (run 0xA0000000 { start with es := 5999 }).map (·.res) = some 0x176F := by decide
theorem test_rtick : (run 0xB0000000).map (·.pr) = some true := by decide
theorem test_step_p1 : (run 0xC0000000 { start with es := 17, inputs := { resetN := some false } }).map
    (fun t => (t.es, t.ph)) = some (0, .p2) := by decide
theorem test_step_p3 : (run 0xC0000000 { start with es := 125, pr := true, ph := .p3, inputs := { pot := some 0x1234 } }).map
    (fun t => (t.out, t.vh, t.ad, t.pr, t.ph)) = some (0xC0F1, 0x1234, 1, false, .p1) := by decide
theorem test_illegal_before_operand : (run 0x10001FFF).map (·.flt) = some 1 := by decide
theorem test_halted_step : (run 0xB0000000 { start with flt := 1 }).map (fun t => (t.flt, t.pr)) = some (1, false) := by
  decide
theorem test_held_per_cycle :
    (run 0xC0000000 { start with pr := true, ph := .p3, ad := 1, mode := .voltmeter, vh := 0x8000,
                                 inputs := { pot := some 0xFFFF } }).map (fun t => (t.out, t.vh)) =
      some (0x82F2, 0x8000) := by decide
theorem test_sampled_per_digit :
    (run 0xC0000000 { start with pr := true, ph := .p3, ad := 1, mode := .voltmeter, vh := 0x8000, policy := .perDigit,
                                 inputs := { pot := some 0xFFFF } }).map (fun t => (t.out, t.vh)) =
      some (0xB0F2, 0xFFFF) := by decide
/-- R165: without the link a WRITE sends the same 50 events and ends at the same pin levels. -/
theorem test_write_unlinked : (run 0x7000C0F1 { start with link := false }).map
    (fun t => (t.data, t.clock, t.latch, t.trace.length, decide (t.trace = frameEvents 0xC0F1))) =
      some (true, true, true, 50, true) := by decide
/-- R75, D12: the segment byte is in the first chip or in the second, as the board is wired. -/
theorem test_chip_bytes :
    [CascadeOrder.segFirstChip, .selFirstChip].map (fun o => chipBytes 0xC0F1 { cascadeOrder := o }) =
      [(0xC0, 0xF1), (0xF1, 0xC0)] := by decide
/-- R7: a parameter set to another value than its default rules the operation. -/
theorem test_other_modulus :
    (after (execFor .tick { start with es := 59 } { esModulus := 60 })).map (·.es) = some 0 := by decide
/-- I7: a volts digit above 9, which no code of the core reaches, faults. -/
theorem test_volts_digit_above_nine :
    (after (execFor (.rendv 0 65535) start { vrefCv := 1600 })).map (fun t => (t.flt, t.res)) = some (2, 0) := by decide
theorem test_halted_verdict : (match verdict { start with flt := 3 } with
    | .fault r => decide (r = .halted .operandRange)
    | _ => false) = true := by decide

/-! ## Assembler text (R113) -/

theorem test_read_rendt : readLine ['R', 'E', 'N', 'D', 'T', ' ', ' ', '1', ',', ' ', '0', 'x', '7', 'D'] =
    some (.op (.rendt 1 125), none) := by decide
theorem test_read_annotated_step :
    readLine (['S', 'T', 'E', 'P', ' '] ++ [openBrace] ++ ['P', 'O', 'T', '=', '0', 'x', '8', '0', '0', '0'] ++ [closeBrace]) =
      some (.op .step, some (.pot 0x8000)) := by decide
theorem test_read_bad_operand_count : readLine ['T', 'I', 'C', 'K', ' ', '1'] = none := by decide

/-! ## Witnesses: a state and operands that meet the hypotheses of each statement that has some -/

/-- `start` with one event ready. -/
def ready (e : Event) : State := { start with events := [e] }

theorem witness_PowerOnResetGivesEveryRegisterItsResetValue :
    ({ start with flt := 2, es := 77, events := [.powerOn 0x1234 0x5678] } : State).events =
      .powerOn 0x1234 0x5678 :: [] := by decide
theorem witness_StepRunsTheDecodedOperation :
    (ready (.word 0x80000000 { })).events = .word 0x80000000 { } :: [] ∧ decodeTableWord 32 0x80000000 = some .tick ∧
      start.events = [] := by decide
theorem witness_HaltedCoreTakesNoEffectUntilPowerOn :
    ({ ready (.word 0x80000000 { }) with flt := 3 } : State).flt ≠ 0 ∧
      ({ ready (.powerOn 1 2) with flt := 1 } : State).flt ≠ 0 ∧
      (ready (.powerOn 1 2)).events = .powerOn 1 2 :: [] := by decide
theorem witness_EncodeOfDecodedIsTheWord : decodeTableWord 32 0x53001FFF = some (.rendt 3 8191) := by decide
theorem witness_OpcodeMapIsTheTableAndRowsDoNotOverlap :
    opRows.map (fun r => (0x5100007D#32 &&& r.mask) == r.pattern) =
      [false, false, false, false, true, false, false, false, false, false, false, false] := by decide
theorem witness_IllegalWordsAreTheReservedOnesAndRaiseIllegalOp :
    (ready (.word 0x20000004 { })).flt = 0 ∧ (ready (.word 0x20000004 { })).events = .word 0x20000004 { } :: [] ∧
      (match decode 0x20000004 with | .error _ => true | .ok _ => false) = true ∧
      (0x20000004#32 >>> 28 = 0x2 ∧ 0x20000004#32 &&& 0x0FFFFFFC ≠ 0) := by decide
theorem witness_SegencReadsTheTableOrFaultsOutOfRange :
    start.flt = 0 ∧ segTable[(9#4).toNat]? = some 0x90 ∧ 10 ≤ (10#4).toNat := by decide
theorem witness_SelencReadsTheTable : start.flt = 0 ∧ selTable[(3#2).toNat]? = some 0xF8 := by decide
theorem witness_TableLookupLaws :
    segTable[(9#4).toNat]? = some 0x90 ∧ selTable[(3#2).toNat]? = some 0xF8 ∧
      (match segROM 9 with | .ok b => decide (b = 0x90) | .error _ => false) = true ∧
      (9#4).toNat < 10 ∧ start.flt = 0 ∧ ({ start with es := 1 } : State).flt = 0 ∧
      (after (exec (.segenc 9) start)).isSome = true ∧ (after (exec (.segenc 9) { start with es := 1 })).isSome = true ∧
      (after (exec (.selenc 3) start)).isSome = true ∧
      (after (exec (.selenc 3) { start with es := 1 })).isSome = true := by decide
theorem witness_SplittWritesMinutesSecondsAndDigits :
    start.flt = 0 ∧ (5999#13).toNat < 6000 ∧ 6000 ≤ (6000#13).toNat := by decide
theorem witness_RendtWritesTheTimerDigit :
    start.flt = 0 ∧ (5999#13).toNat < 6000 ∧ 6000 ≤ (6000#13).toNat := by decide
theorem witness_CentivoltConversionLaws : (0#16).toNat ≤ (65535#16).toNat ∧ 330 ≤ 330 := by decide
theorem witness_SplitvWritesCentivoltsAndDigits : start.flt = 0 ∧ 330 = (65535#16).toNat * 330 / 65535 := by decide
theorem witness_RendvWritesTheVoltmeterDigit : start.flt = 0 ∧ 330 = (65535#16).toNat * 330 / 65535 := by decide
theorem witness_RenderDigitIsDefinedAndReadsOnlyItsMode : (5999#13).toNat < 6000 := by decide
theorem witness_DecimalPointShowsOnlyAtItsPosition :
    (match renderDigit .timer 1 5999 0 with | .ok b => decide (b = 0x10) | .error _ => false) = true ∧
      (match renderDigit .voltmeter 0 0 65535 with | .ok b => decide (b = 0x30) | .error _ => false) = true := by decide
theorem witness_WriteSendsTheFrameOnThePins :
    start.flt = 0 ∧ start.link = true ∧ ({ start with link := false } : State).link = false := by decide
theorem witness_OutputsStayFrozenUntilTheLatchRises : 49 < 50 := by decide
theorem witness_PinWriteDrivesTheChainOnRisingEdges :
    start.clock = false ∧ start.latch = false ∧ ({ start with clock := true, latch := true } : State).clock = true ∧
      ({ start with clock := true, latch := true } : State).latch = true ∧ start.link = true := by decide
theorem witness_CoreBehavesTheSameWithoutTheLink :
    start.link = true ∧ (after (exec (.write 0xC0 0xF1) start)).isSome = true := by decide
theorem witness_TickCountsSecondsModuloSixThousand :
    start.flt = 0 ∧ ({ start with es := 5999 } : State).es.toNat = 5999 ∧
      ({ start with es := 5998 } : State).es.toNat < 5999 := by decide
theorem witness_SixThousandTicksReturnToTheStart :
    ({ start with es := 5999 } : State).flt = 0 ∧ ({ start with es := 5999 } : State).es.toNat < 6000 := by decide
theorem witness_TresetClearsTheCounterAlone : ({ start with es := 4321 } : State).flt = 0 := by decide
theorem witness_TreadCopiesTheCounterToTheResult : ({ start with es := 5999 } : State).flt = 0 := by decide
theorem witness_LastOfTickAndResetDecidesTheCounter :
    start.flt = 0 ∧ start.ph = .p1 ∧ ({ resetN := some false } : Inputs).resetN = some false := by decide
theorem witness_RtickSetsPending : start.flt = 0 ∧ ({ start with pr := true } : State).flt = 0 := by decide
theorem witness_RefreshTicksCoalesce : start.flt = 0 := by decide
theorem witness_RefreshTickIsConsumedOrKept :
    ({ start with ph := .p3 } : State).flt = 0 ∧ ({ start with ph := .p3 } : State).es.toNat < 6000 ∧
      ({ start with ph := .p3 } : State).ph = .p3 := by decide
theorem witness_StepAtP1ServesTheResetButton :
    start.flt = 0 ∧ start.ph = .p1 ∧
      ({ start with inputs := { resetN := some false } } : State).inputs.resetN = some false ∧
      ({ start with inputs := { resetN := some true } } : State).inputs.resetN = some true := by decide
theorem witness_StepAtP2FollowsTheModeButton :
    ({ start with ph := .p2 } : State).flt = 0 ∧ ({ start with ph := .p2 } : State).ph = .p2 ∧
      ({ start with inputs := { modeN := some false } } : State).inputs.modeN = some false ∧
      ({ start with inputs := { modeN := some true } } : State).inputs.modeN = some true := by decide
theorem witness_UnofferedButtonLevelsAreFreeDraws :
    start.flt = 0 ∧ start.ph = .p1 ∧ start.inputs.resetN = none ∧ ({ start with ph := .p2 } : State).flt = 0 ∧
      ({ start with ph := .p2 } : State).ph = .p2 ∧ ({ start with ph := .p2 } : State).inputs.modeN = none := by decide
theorem witness_StepAtP3WithoutPendingOnlyMovesOn :
    ({ start with ph := .p3 } : State).flt = 0 ∧ ({ start with ph := .p3 } : State).ph = .p3 ∧
      ({ start with ph := .p3 } : State).pr = false := by decide

/-- A refresh of a position is due, and POT shows a code or nothing. -/
def due (ad : Position) (pot : Option Code) : State :=
  { start with ph := .p3, pr := true, ad := ad, vh := 7, mode := .voltmeter, inputs := { pot := pot } }

theorem witness_StepAtP3RefreshesTheActiveDigit_sampled :
    (due 0 (some 0x8000)).flt = 0 ∧ (due 0 (some 0x8000)).es.toNat < 6000 ∧ (due 0 (some 0x8000)).ph = .p3 ∧
      (due 0 (some 0x8000)).pr = true ∧ selTable[(due 0 (some 0x8000)).ad.toNat]? = some 0xF1 ∧
      (due 0 (some 0x8000)).ad = 0 ∧ (due 0 (some 0x8000)).inputs.pot = some 0x8000 ∧
      (match renderDigit .voltmeter 0 0 0x8000 with | .ok b => decide (b = 0x79) | .error _ => false) = true := by
  decide
theorem witness_StepAtP3RefreshesTheActiveDigit_held :
    (due 3 none).flt = 0 ∧ (due 3 none).es.toNat < 6000 ∧ (due 3 none).ph = .p3 ∧ (due 3 none).pr = true ∧
      selTable[(due 3 none).ad.toNat]? = some 0xF8 ∧
      ¬ ((due 3 none).policy = .perDigit ∨ (due 3 none).ad = 0) ∧ (due 3 none).vh = 7 ∧
      (match renderDigit .voltmeter 3 0 7 with | .ok b => decide (b = 0xFF) | .error _ => false) = true := by decide
theorem witness_RefreshTakesAFreeDrawOfPot :
    (due 0 none).flt = 0 ∧ (due 0 none).es.toNat < 6000 ∧ (due 0 none).ph = .p3 ∧ (due 0 none).pr = true ∧
      ((due 0 none).policy = .perDigit ∨ (due 0 none).ad = 0) ∧ (due 0 none).inputs.pot = none := by decide
theorem witness_StepNeverFaultsAndCyclesThePhase :
    (due 3 none).flt = 0 ∧ (due 3 none).es.toNat < 6000 ∧ Instr.tick ≠ .step ∧
      (after (exec .tick (due 3 none))).isSome = true := by decide
theorem witness_HeldVoltageChangesOnlyAtPositionZero :
    ({ due 0 (some 0x8000) with events := [.word 0xC0000000 { pot := some 0x8000 }] } : State).policy = .perCycle ∧
      (after (step { due 0 (some 0x8000) with events := [.word 0xC0000000 { pot := some 0x8000 }] })).map (·.vh) =
        some 0x8000 ∧ (due 0 (some 0x8000)).vh ≠ 0x8000 := by decide
theorem witness_FourRefreshesVisitEveryPositionOnce :
    ({ start with ad := 2 } : State).flt = 0 ∧ ({ start with ad := 2 } : State).es.toNat < 6000 ∧
      ({ start with ad := 2 } : State).ph = .p1 := by decide
theorem witness_FullCycleShowsTheElapsedTime :
    ({ start with es := 5999 } : State).flt = 0 ∧ ({ start with es := 5999 } : State).es.toNat < 6000 ∧
      start.ph = .p1 ∧ start.ad = 0 ∧
      ({ resetN := some true, modeN := some true } : Inputs).resetN = some true ∧
      ({ resetN := some true, modeN := some true } : Inputs).modeN = some true := by decide
theorem witness_FullCycleShowsOneVoltageSample :
    start.flt = 0 ∧ start.es.toNat < 6000 ∧ start.ph = .p1 ∧ start.ad = 0 ∧ start.policy = .perCycle ∧
      ({ modeN := some false, pot := some 0x8000 } : Inputs).modeN = some false ∧
      ({ modeN := some false, pot := some 0x8000 } : Inputs).pot = some 0x8000 ∧
      ({ modeN := some false, pot := some 0xFFFF } : Inputs).modeN = some false ∧
      ({ modeN := some false, pot := some 0 } : Inputs).modeN = some false ∧
      ({ modeN := some false } : Inputs).modeN = some false ∧
      165 = (0x8000#16).toNat * 330 / 65535 := by decide
/-- Each premise of the statement about the parameters, at a setting other than the default one. -/
theorem witness_ParametersRuleTheOperations :
    let P : Params := { esWidth := 6, esModulus := 60, numDigits := 3, adcBits := 10, adcFullScale := 1023 }
    (start.flt = 0 ∧ P.segRom.length = 10 ∧ P.selRom.length = 4 ∧ 0 < P.numDigits ∧ P.numDigits ≤ 4 ∧ P.esWidth ≤ 13 ∧
      P.adcBits ≤ 16 ∧ P.frameBits ≤ 16 ∧ 0 < P.esModulus ∧ 0 < P.adcFullScale) ∧
    (P.segRom[(9#4).toNat]? = some 0x90 ∧ P.segRom[(10#4).toNat]? = none ∧ P.selRom[(3#2).toNat]? = some 0xF8 ∧
      P.esModulus ≤ 2 ^ P.esWidth ∧ start.es.toNat < P.esModulus ∧ start.es.toNat + 1 ≠ P.esModulus ∧
      P.esModulus ≤ (60#13).toNat ∧ (59#13).toNat < P.esModulus ∧ P.segRom[(59#13).toNat / 60 % 10]? = some 0xC0) ∧
    (330 = (1023#16).toNat * P.vrefCv / P.adcFullScale ∧ 330 < 512 ∧ P.segRom[330 / 100]? = some 0xB0 ∧
      10 ≤ (65535#16).toNat * P.vrefCv / P.adcFullScale / 100) ∧
    ((due 0 (some 0x8001)).flt = 0 ∧ (due 0 (some 0x8001)).ph = .p3 ∧ (due 0 (some 0x8001)).pr = true ∧
      (due 0 (some 0x8001)).ad = 0 ∧ (due 0 (some 0x8001)).inputs.pot = some 0x8001 ∧
      (match renderDigit .voltmeter 0 0 (portCode 0x8001 P) P with | .ok b => decide (b = 0x40) | .error _ => false) =
        true) ∧
    ({ P with cascadeOrder := .segFirstChip } : Params).cascadeOrder = .segFirstChip ∧
    ({ P with cascadeOrder := .selFirstChip } : Params).cascadeOrder = .selFirstChip := by decide
theorem witness_OperationsWriteOnlyTheirOwnState :
    (after (exec .step (due 0 (some 0x8000)))).isSome = true ∧ start.es.toNat < 6000 := by decide
theorem witness_FaultsArePreciseAndOfTheListedCauses :
    start.flt = 0 ∧ start.es.toNat < 6000 ∧ (after (execWord 0x1000000A start)).map (·.flt) = some 2 ∧
      (after (execWord 0x30001770 start)).map (·.flt) = some 3 ∧ (after (execWord 0 start)).map (·.flt) = some 1 := by
  decide
theorem witness_PureQueriesReadNoState :
    start.flt = 0 ∧ (due 0 none).flt = 0 ∧ (after (exec (.rendt 1 125) start)).isSome = true ∧
      (after (exec (.rendt 1 125) (due 0 none))).isSome = true := by decide

/-- The invariant holds of a state that has written no frame. -/
theorem witness_EveryStepKeepsTheInvariant :
    CoreInv (ready (.word 0x7000C0F1 { })) ∧ (after (step (ready (.word 0x7000C0F1 { })))).isSome = true :=
  ⟨⟨by decide, ⟨[], rfl⟩, fun _ _ => ⟨rfl, rfl, rfl⟩, fun _ => ⟨0xABCD, 0xABCD, rfl⟩⟩, by decide⟩

theorem witness_DeployedStepKeepsTheRoundRobin :
    RoundRobin (ready (.word 0xB0000000 { })) ∧ DeployedNext (ready (.word 0xB0000000 { })) ∧
      (after (step (ready (.word 0xB0000000 { })))).isSome = true :=
  ⟨⟨by decide, rfl, [], rfl, rfl, fun n h => absurd h (Nat.not_lt_zero n)⟩, ⟨.rtick, by decide, by decide⟩, by decide⟩

theorem witness_DeployedRunsNeverHalt :
    RoundRobin { start with events := [.word (encode .rtick) { }, .word (encode .step) { }] } ∧
      (∀ o ∈ ([{ op := .rtick }, { op := .step }] : List Issue), agentOf o.op ≠ .harness) ∧
      ({ start with events := [.word (encode .rtick) { }, .word (encode .step) { }] } : State).events =
        ([{ op := .rtick }, { op := .step }] : List Issue).map (fun o => Event.word (encode o.op) o.inputs) ++ [] :=
  ⟨⟨by decide, rfl, [], rfl, rfl, fun n h => absurd h (Nat.not_lt_zero n)⟩, by decide, rfl⟩

end Sys2Proof.Tests
end

/-! SUPPORT. Proofs of the statements on the scope of the core: the operations and who issues them, the step, the pure
queries, the parameters, and deployed runs (spec/00_scope.md). -/

namespace Sys2Proof.Proofs

open Sys2Proof.Machine Sys2Proof.Safety

/-! ## Agents and ports -/

theorem portOf_eq_tickOneSecond {i : Instr} : portOf i = .tickOneSecond ↔ i = .tick := by
  cases i <;> simp [portOf]

theorem portOf_eq_tickRefresh {i : Instr} : portOf i = .tickRefresh ↔ i = .rtick := by
  cases i <;> simp [portOf]

theorem portOf_eq_internal {i : Instr} : portOf i = .internal ↔ i = .step := by
  cases i <;> simp [portOf]

theorem agentOf_eq_secondSource {i : Instr} : agentOf i = .secondSource ↔ portOf i = .tickOneSecond := by
  unfold agentOf
  cases portOf i <;> simp

theorem agentOf_eq_refreshSource {i : Instr} : agentOf i = .refreshSource ↔ portOf i = .tickRefresh := by
  unfold agentOf
  cases portOf i <;> simp

theorem agentOf_eq_sequencer {i : Instr} : agentOf i = .sequencer ↔ portOf i = .internal := by
  unfold agentOf
  cases portOf i <;> simp

theorem agentOf_eq_harness {i : Instr} : agentOf i = .harness ↔ portOf i = .command := by
  unfold agentOf
  cases portOf i <;> simp

/-- The operations of a deployed system (R10). -/
theorem deployed_cases {i : Instr} (h : agentOf i ≠ .harness) : i = .tick ∨ i = .rtick ∨ i = .step := by
  rw [Ne, agentOf_eq_harness] at h
  cases hp : portOf i with
  | tickOneSecond => exact .inl (portOf_eq_tickOneSecond.mp hp)
  | tickRefresh => exact .inr (.inl (portOf_eq_tickRefresh.mp hp))
  | internal => exact .inr (.inr (portOf_eq_internal.mp hp))
  | command => exact absurd hp h

/-- Settles O52: each agent has one port, and each strobe or internal port one operation. -/
theorem agentsAndPortsOfTheOperations : Obligations.AgentsAndPortsOfTheOperations :=
  ⟨fun _ => agentOf_eq_secondSource.trans portOf_eq_tickOneSecond,
    fun _ => agentOf_eq_refreshSource.trans portOf_eq_tickRefresh,
    fun _ => agentOf_eq_sequencer.trans portOf_eq_internal,
    fun _ => portOf_eq_tickOneSecond, fun _ => portOf_eq_tickRefresh, fun _ => portOf_eq_internal,
    fun _ => agentOf_eq_harness⟩

/-! ## The step -/

theorem execWord_of_decode {w : OpWord} {i : Instr} (h : decode w = .ok i) (s : State) : execWord w s = exec i s := by
  simp [execWord, h]

/-- A step takes the first event that is ready. -/
theorem step_of_event {s : State} {event : Event} {rest : List Event} (h : s.events = event :: rest) :
    step s = execEvent event { s with events := rest } := by
  rw [step, takeEvent_cons s event rest h]

/-- A step runs the operation of the word that arrives, while the ports show what came with it. -/
theorem step_of_word {s : State} {w : OpWord} {inputs : Inputs} {rest : List Event} {i : Instr}
    (h : s.events = .word w inputs :: rest) (hd : decode w = .ok i) :
    step s = exec i { s with events := rest, inputs := inputs } := by
  rw [step_of_event h]
  exact execWord_of_decode hd _

/-- With no event ready, a step takes a free one. -/
theorem step_of_no_event {s : State} (h : s.events = []) :
    step s = execEvent (Config.freeEvent s.draws) { s with draws := s.draws + 1 } := by
  simp [step, takeEvent, h]

/-- The word the host places arrives next, in the state as it was before it was placed. -/
theorem step_withFetchWord {s : State} {nbits w : Nat} {i : Instr} (hd : decode (BitVec.ofNat 32 w) = .ok i) :
    step (s.withFetchWord nbits w) = exec i s := by
  rw [step, takeEvent_withFetchWord]
  exact execWord_of_decode hd _

/-- Settles O2: the three places a step's event can come from, one lemma each. -/
theorem stepRunsTheDecodedOperation : Obligations.StepRunsTheDecodedOperation :=
  ⟨fun _ _ _ _ _ => step_of_word, fun _ => step_of_no_event, fun _ _ _ _ => step_withFetchWord⟩

/-! ## The operations on a running core, whatever the parameters -/

section Running

variable {s : State} (hf : s.flt = 0) (P : Params)
include hf

theorem execFor_segenc (d : Digit) :
    execFor (.segenc d) s P = finish (segROM d P) (fun b => setResult b s) s := by
  simp only [execFor, execSegenc, whenRunning_of_running hf]

theorem execFor_selenc (p : Position) : execFor (.selenc p) s P = .next (setResult (selROM p P) s) := by
  simp only [execFor, execSelenc, whenRunning_of_running hf]

theorem execFor_splitt (e : Elapsed) :
    execFor (.splitt e) s P = finish (elapsedInRange e P) (fun n => setResult (splitTimer n) s) s := by
  simp only [execFor, execSplitt, whenRunning_of_running hf]

theorem execFor_splitv (c : Code) :
    execFor (.splitv c) s P = .next (setResult (splitVolts (centivolts c P)) s) := by
  simp only [execFor, execSplitv, whenRunning_of_running hf]

theorem execFor_rendt (p : Position) (e : Elapsed) :
    execFor (.rendt p e) s P = finish (timerDigit p e P) (fun b => setResult b s) s := by
  simp only [execFor, execRendt, whenRunning_of_running hf]

theorem execFor_rendv (p : Position) (c : Code) :
    execFor (.rendv p c) s P = finish (voltDigit p c P) (fun b => setResult b s) s := by
  simp only [execFor, execRendv, whenRunning_of_running hf]

theorem execFor_write (a b : Byte) : execFor (.write a b) s P = .next (serialize a b s P) := by
  simp only [execFor, execWrite, whenRunning_of_running hf]

theorem execFor_tick : execFor .tick s P = .next { s with es := nextSecond s.es P } := by
  simp only [execFor, execTick, whenRunning_of_running hf]

theorem execFor_rtick : execFor .rtick s P = .next (setPending s) := by
  simp only [execFor, execRtick, whenRunning_of_running hf]

theorem execFor_step_p3 (hp : s.ph = .p3) : execFor .step s P = stepP3 s P := by
  simp only [execFor, execStep, whenRunning_of_running hf, hp]

end Running

/-! ## The pure queries -/

/-- The end of a query, its effect written as the value RES takes. -/
theorem finish_setResult {α : Type} {n : Nat} (value : Except FaultCause α) (f : α → BitVec n) (s : State) :
    finish value (fun v => setResult (f v) s) s =
      finish (value.map fun v => (f v).setWidth 32) (fun r => { s with res := r }) s := by
  cases value <;> rfl

/-- A pure query ends with a value for RES, or a fault, that is the same in every running state. -/
theorem exec_query_eq_finish {i : Instr}
    (hi : (∃ d, i = .segenc d) ∨ (∃ p, i = .selenc p) ∨ (∃ e, i = .splitt e) ∨ (∃ c, i = .splitv c) ∨
      (∃ p e, i = .rendt p e) ∨ (∃ p c, i = .rendv p c)) :
    ∃ value : Except FaultCause OpWord, ∀ s : State, s.flt = 0 →
      exec i s = finish value (fun r => { s with res := r }) s := by
  simp only [← execFor_standard]
  rcases hi with ⟨d, rfl⟩ | ⟨p, rfl⟩ | ⟨e, rfl⟩ | ⟨c, rfl⟩ | ⟨p, e, rfl⟩ | ⟨p, c, rfl⟩
  · exact ⟨_, fun s hf => (execFor_segenc hf ..).trans (finish_setResult ..)⟩
  · exact ⟨.ok _, fun s hf => execFor_selenc hf ..⟩
  · exact ⟨_, fun s hf => (execFor_splitt hf ..).trans (finish_setResult ..)⟩
  · exact ⟨.ok _, fun s hf => execFor_splitv hf ..⟩
  · exact ⟨_, fun s hf => (execFor_rendt hf ..).trans (finish_setResult ..)⟩
  · exact ⟨_, fun s hf => (execFor_rendv hf ..).trans (finish_setResult ..)⟩

/-- Settles O51: a query's value or fault is fixed before the state is, and it goes to RES or to FLT alone. -/
theorem pureQueriesReadNoState : Obligations.PureQueriesReadNoState := by
  intro i s s' t t' hi hf hf' h h'
  obtain ⟨value, hvalue⟩ := exec_query_eq_finish hi
  rw [hvalue s hf] at h
  rw [hvalue s' hf'] at h'
  cases value with
  | ok r =>
    obtain rfl := Host.Outcome.next.inj h
    obtain rfl := Host.Outcome.next.inj h'
    exact ⟨hf.trans hf'.symm, fun _ => rfl, rfl⟩
  | error cause =>
    obtain rfl := Host.Outcome.next.inj h
    obtain rfl := Host.Outcome.next.inj h'
    exact ⟨rfl, fun h0 => absurd h0 (faultCode_ne_zero cause), rfl⟩

/-! ## Deployed runs -/

/-- What writes neither TRACE nor AD keeps the round robin. -/
theorem roundRobin_of_same_trace {s t : State} (h : RoundRobin s) (hes : t.es.toNat < 6000) (hflt : t.flt = s.flt)
    (htrace : t.trace = s.trace) (had : t.ad = s.ad) : RoundRobin t where
  elapsed := hes
  running := hflt.trans h.running
  frames := by
    rw [htrace, had]
    exact h.frames

/-- A frame for the active position, with the advance to the next one, keeps the round robin. -/
theorem roundRobin_of_refresh {s t : State} (h : RoundRobin s) {seg : Byte} (hes : t.es = s.es) (hflt : t.flt = s.flt)
    (htrace : t.trace = s.trace ++ frameEvents (frameOf seg (selROM s.ad))) (had : t.ad = s.ad + 1) :
    RoundRobin t where
  elapsed := hes ▸ h.elapsed
  running := hflt.trans h.running
  frames := by
    obtain ⟨fs, hfs, hn, hsel⟩ := h.frames
    refine ⟨fs ++ [frameOf seg (selROM s.ad)], by simp [htrace, hfs], ?_, fun n hlt => ?_⟩
    · rw [had, hn, List.length_append, List.length_singleton, BitVec.ofNat_add]
      rfl
    · rw [List.getElem_append]
      split
      case isTrue hold => exact hsel n hold
      case isFalse hnew =>
        have hlast : n = fs.length := by
          rw [List.length_append, List.length_singleton] at hlt
          omega
        simp [hlast, hn]

/-- STEP keeps the round robin, and takes no event: a refresh sends the frame of the active position and advances, and
the other phases leave TRACE and AD alone. -/
theorem execStep_keeps_roundRobin {s t : State} (h : RoundRobin s) (hstep : execStep s = .next t) :
    RoundRobin t ∧ t.events = s.events := by
  rcases execStep_cases h.running h.elapsed hstep with
    ⟨-, rfl⟩ | ⟨-, rfl⟩ | ⟨-, -, rfl⟩ | ⟨-, -, seg, v, d, x, y, -, rfl, -⟩
  · refine ⟨roundRobin_of_same_trace h ?_ (by simp) (by simp) (by simp), by simp⟩
    have := h.elapsed
    dsimp only
    split <;> simp_all
  · exact ⟨roundRobin_of_same_trace h (by simpa using h.elapsed) (by simp) (by simp) (by simp), by simp⟩
  · exact ⟨roundRobin_of_same_trace h h.elapsed rfl rfl rfl, rfl⟩
  · exact ⟨roundRobin_of_refresh h rfl rfl rfl rfl, rfl⟩

/-- An operation of the sequencer or of an event source completes, keeps the round robin and takes no event. -/
theorem exec_deployed_keeps_roundRobin {i : Instr} {s : State} (h : RoundRobin s) (hi : agentOf i ≠ .harness) :
    ∃ t, exec i s = .next t ∧ RoundRobin t ∧ t.events = s.events := by
  rcases deployed_cases hi with rfl | rfl | rfl
  · have hes : (nextSecond s.es).toNat < 6000 := by
      rw [toNat_nextSecond h.elapsed]
      exact Nat.mod_lt _ (by decide)
    exact ⟨{ s with es := nextSecond s.es }, execFor_tick h.running standard,
      roundRobin_of_same_trace h hes rfl rfl rfl, rfl⟩
  · exact ⟨setPending s, execFor_rtick h.running standard,
      roundRobin_of_same_trace h h.elapsed rfl rfl rfl, rfl⟩
  · obtain ⟨t, ht⟩ := execStep_answers_next h.running
    exact ⟨t, ht, execStep_keeps_roundRobin h ht⟩

theorem decode_encode_deployed {i : Instr} (hi : agentOf i ≠ .harness) : decode (encode i) = .ok i := by
  rcases deployed_cases hi with rfl | rfl | rfl <;> rfl

/-- A step to which the environment's next word is a deployed operation completes and keeps the round robin. -/
theorem step_deployed_keeps_roundRobin {s : State} {i : Instr} {inputs : Inputs} {rest : List Event}
    (h : RoundRobin s) (hi : agentOf i ≠ .harness) (hev : s.events = .word (encode i) inputs :: rest) :
    ∃ t, step s = .next t ∧ RoundRobin t ∧ t.events = rest := by
  rw [step_of_word hev (decode_encode_deployed hi)]
  exact exec_deployed_keeps_roundRobin (roundRobin_of_same_trace h h.elapsed rfl rfl rfl) hi

theorem halted_of_roundRobin {s : State} (h : RoundRobin s) : halted s = false := by
  simp [halted, h.running]

theorem run_succ_of_step {s t : State} (k : Nat) (h : step s = .next t) :
    Host.Core.run core (k + 1) s = Host.Core.run core k t := by
  simp only [Host.Core.run, show core.step s = .next t from h]

/-- Settles O56, by induction on the operations: each one's step completes and keeps the round robin, which holds FLT
at 0. -/
theorem deployedRunsNeverHalt : Obligations.DeployedRunsNeverHalt := by
  intro ops
  induction ops with
  | nil => exact fun s rest h _ hev => ⟨s, rfl, h, halted_of_roundRobin h, hev⟩
  | cons o ops ih =>
    intro s rest h hdeployed hev
    obtain ⟨ho, hops⟩ := List.forall_mem_cons.mp hdeployed
    obtain ⟨t, hstep, ht, htev⟩ := step_deployed_keeps_roundRobin h ho hev
    rw [List.length_cons, run_succ_of_step _ hstep]
    exact ih t rest ht hops htev

/-! ## The parameters -/

/-- Settles O47: the defaults as listed, and the core at them is the machine. -/
theorem parametersHaveTheirListedDefaults : Obligations.ParametersHaveTheirListedDefaults :=
  ⟨rfl, execFor_standard, stepFor_standard⟩

theorem segROM_of_getElem? {P : Params} {d : Digit} {b : Byte} (hlen : P.segRom.length = 10)
    (hb : P.segRom[d.toNat]? = some b) : segROM d P = .ok b := by
  obtain ⟨hd, -⟩ := List.getElem?_eq_some_iff.mp hb
  exact segEntry_of_getElem? (by omega) hb

theorem segROM_of_getElem?_none {P : Params} {d : Digit} (hlen : P.segRom.length = 10)
    (hb : P.segRom[d.toNat]? = none) : segROM d P = .error .digitRange := by
  rw [List.getElem?_eq_none_iff, hlen] at hb
  exact segEntry_of_ge P hb

theorem selROM_of_getElem? {P : Params} {p : Position} {b : Byte} (hb : P.selRom[p.toNat]? = some b) :
    selROM p P = b := by
  simp [selROM, List.getD, hb]

/-- A count within a modulus that fits the width goes round by the modulus. -/
theorem toNat_nextSecond_of_lt_modulus {es : Elapsed} {P : Params} (hwidth : P.esWidth ≤ 13)
    (hfits : P.esModulus ≤ 2 ^ P.esWidth) (hes : es.toNat < P.esModulus) :
    (nextSecond es P).toNat = (es.toNat + 1) % P.esModulus := by
  have hpow : 2 ^ P.esWidth ≤ 2 ^ 13 := Nat.pow_le_pow_right (by decide) hwidth
  unfold nextSecond
  split
  case isTrue hlast => simp [show es.toNat + 1 = P.esModulus by omega]
  case isFalse hnext =>
    have hlt : es.toNat + 1 < P.esModulus := by omega
    rw [Nat.mod_eq_of_lt hlt, Nat.mod_eq_of_lt (hlt.trans_le hfits), BitVec.toNat_ofNat,
      Nat.mod_eq_of_lt ((hlt.trans_le hfits).trans_le hpow)]

/-- A count that does not meet the modulus goes round by the width. -/
theorem toNat_nextSecond_of_ne_modulus {es : Elapsed} {P : Params} (hwidth : P.esWidth ≤ 13)
    (hes : es.toNat + 1 ≠ P.esModulus) (hpos : 0 < P.esModulus) :
    (nextSecond es P).toNat = (es.toNat + 1) % 2 ^ P.esWidth := by
  have hpow : 2 ^ P.esWidth ≤ 2 ^ 13 := Nat.pow_le_pow_right (by decide) hwidth
  have hlt : (es.toNat + 1) % 2 ^ P.esWidth < 2 ^ P.esWidth := Nat.mod_lt _ (by positivity)
  rw [nextSecond, if_neg (by omega), BitVec.toNat_ofNat, Nat.mod_eq_of_lt (hlt.trans_le hpow)]

theorem elapsedInRange_of_ge_modulus {e : Elapsed} {P : Params} (h : P.esModulus ≤ e.toNat) :
    elapsedInRange e P = .error .operandRange := if_neg (Nat.not_lt.mpr h)

theorem timerDigit_of_ge_modulus (p : Position) {e : Elapsed} {P : Params} (h : P.esModulus ≤ e.toNat) :
    timerDigit p e P = .error .operandRange := by
  rw [timerDigit, elapsedInRange_of_ge_modulus h]
  rfl

/-- Position 1 in timer mode is the minutes' low digit with the point. -/
theorem timerDigit_one {e : Elapsed} {b : Byte} {P : Params} (he : e.toNat < P.esModulus)
    (hb : P.segRom[e.toNat / 60 % 10]? = some b) : timerDigit 1 e P = .ok (b &&& P.dpMask) := by
  have hseg : segEntry (e.toNat / 60 % 10) P = .ok b := segEntry_of_getElem? (by omega) hb
  have hrange : elapsedInRange e P = .ok e.toNat := if_pos he
  simp only [timerDigit, hrange, bind, Except.bind]
  show (withPoint · P) <$> segEntry (e.toNat / 60 % 10) P = _
  rw [hseg]
  rfl

/-- Position 0 in voltmeter mode is the volts digit with the point. -/
theorem voltDigit_zero (c : Code) (P : Params) :
    voltDigit 0 c P = (segEntry (centivolts c P / 100) P).map (withPoint · P) := rfl

theorem voltDigit_three (c : Code) (P : Params) : voltDigit 3 c P = .ok P.blank := rfl

theorem voltDigit_zero_of_getElem? {c : Code} {b : Byte} {P : Params} (hlen : P.segRom.length = 10)
    (hb : P.segRom[centivolts c P / 100]? = some b) : voltDigit 0 c P = .ok (b &&& P.dpMask) := by
  obtain ⟨hd, -⟩ := List.getElem?_eq_some_iff.mp hb
  rw [voltDigit_zero, segEntry_of_getElem? (by omega) hb]
  rfl

theorem voltDigit_zero_of_ge {c : Code} {P : Params} (h : 10 ≤ centivolts c P / 100) :
    voltDigit 0 c P = .error .digitRange := by
  rw [voltDigit_zero, segEntry_of_ge P h]
  rfl

theorem trace_serialize (a b : Byte) (s : State) (P : Params) :
    (serialize a b s P).trace = s.trace ++ frameEvents (frameOf a b) P := by
  rw [serialize, emitAll_frame]

theorem vh_serialize (a b : Byte) (s : State) (P : Params) : (serialize a b s P).vh = s.vh := by
  rw [serialize, emitAll_frame]

theorem toNat_nextPosition (ad : Position) {P : Params} (hpos : 0 < P.numDigits) (hle : P.numDigits ≤ 4) :
    (nextPosition ad P).toNat = (ad.toNat + 1) % P.numDigits := by
  have hlt : (ad.toNat + 1) % P.numDigits < P.numDigits := Nat.mod_lt _ hpos
  rw [nextPosition, BitVec.toNat_ofNat, Nat.mod_eq_of_lt (by omega)]

theorem toNat_portCode (c : Code) {P : Params} (h : P.adcBits ≤ 16) :
    (portCode c P).toNat = c.toNat % 2 ^ P.adcBits := by
  have hpow : 2 ^ P.adcBits ≤ 2 ^ 16 := Nat.pow_le_pow_right (by decide) h
  have hlt : c.toNat % 2 ^ P.adcBits < 2 ^ P.adcBits := Nat.mod_lt _ (by positivity)
  rw [portCode, BitVec.toNat_ofNat, Nat.mod_eq_of_lt (hlt.trans_le hpow)]

/-- A refresh that samples an offered code holds the code as the port delivers it, and advances. -/
theorem stepP3_sampled {s : State} {code : Code} {seg : Byte} {P : Params} (hpr : s.pr = true)
    (hpolicy : s.policy = .perDigit ∨ s.ad = 0) (hcode : s.inputs.pot = some code)
    (hseg : renderDigit s.mode s.ad s.es (portCode code P) P = .ok seg) :
    ∃ t, stepP3 s P = .next t ∧ t.ad = nextPosition s.ad P ∧ t.vh = portCode code P := by
  have hhold : holdVoltage (clearPending s) P = { clearPending s with vh := portCode code P } :=
    holdVoltage_of_offered_params P (samplesPot_iff.mpr hpolicy) hcode
  unfold stepP3
  simp only [if_pos hpr, hhold, clearPending_mode, clearPending_ad, clearPending_es, hseg, finish_ok]
  exact ⟨_, rfl, rfl, vh_serialize ..⟩

theorem chipBytes_of_segFirstChip {P : Params} (h : P.cascadeOrder = .segFirstChip) (out : Frame) :
    chipBytes out P = (segmentByte out, selectByte out) := by
  simp [chipBytes, h]

theorem chipBytes_of_selFirstChip {P : Params} (h : P.cascadeOrder = .selFirstChip) (out : Frame) :
    chipBytes out P = (selectByte out, segmentByte out) := by
  simp [chipBytes, h]

/-- No operation reads a period (R345). -/
theorem execFor_periods (i : Instr) (s : State) (P : Params) (tickMs refreshMs : Nat) :
    execFor i s { P with tickPeriodMs := tickMs, refreshPeriodMs := refreshMs } = execFor i s P := by
  cases i <;> rfl

/-- Settles O48: each clause is the operation's equation on a running core, with the value its parameter gives it. -/
theorem parametersRuleTheOperations : Obligations.ParametersRuleTheOperations := by
  intro P s hf hseg _ hdig hdig4 hwidth hadc _ hmod _
  refine ⟨fun d => ?segenc, fun p b hb => ?selenc, fun hfits hes => ?tickModulus, fun hes => ?tickWidth,
    fun p e he => ⟨?splittFault, ?rendtFault⟩, fun e b he hb => ?rendtPoint, ?volts, fun a b => ?write,
    fun code seg hp hpr hpolicy hcode hdigit => ?refresh,
    fun out => ⟨fun h => chipBytes_of_segFirstChip h out, fun h => chipBytes_of_selFirstChip h out⟩,
    fun i => execFor_periods i s P⟩
  case segenc =>
    rw [execFor_segenc hf]
    split
    case h_1 b hb => rw [segROM_of_getElem? hseg hb]; rfl
    case h_2 hb => rw [segROM_of_getElem?_none hseg hb]; rfl
  case selenc => rw [execFor_selenc hf, selROM_of_getElem? hb]; rfl
  case tickModulus => exact ⟨_, toNat_nextSecond_of_lt_modulus hwidth hfits hes, execFor_tick hf P⟩
  case tickWidth => exact ⟨_, toNat_nextSecond_of_ne_modulus hwidth hes hmod, execFor_tick hf P⟩
  case splittFault => rw [execFor_splitt hf, elapsedInRange_of_ge_modulus he]; rfl
  case rendtFault => rw [execFor_rendt hf, timerDigit_of_ge_modulus p he]; rfl
  case rendtPoint => rw [execFor_rendt hf, timerDigit_one he hb]; rfl
  case volts =>
    rintro c _ rfl
    refine ⟨fun _ => execFor_splitv hf P c, ?_, fun b hb => ?_, fun hv => ?_⟩
    · rw [execFor_rendv hf, voltDigit_three]; rfl
    · rw [execFor_rendv hf, voltDigit_zero_of_getElem? hseg hb]; rfl
    · rw [execFor_rendv hf, voltDigit_zero_of_ge hv]; rfl
  case write =>
    refine ⟨_, execFor_write hf P a b, ?_⟩
    rw [trace_serialize, List.length_append, length_frameEvents_params, Nat.add_assoc]
  case refresh =>
    obtain ⟨t, ht, had, hvh⟩ := stepP3_sampled hpr hpolicy hcode hdigit
    exact ⟨t, (execFor_step_p3 hf P hp).trans ht, had ▸ toNat_nextPosition s.ad hdig hdig4,
      hvh ▸ toNat_portCode code hadc⟩

end Sys2Proof.Proofs

/-! SUPPORT. Proofs of the statements on the state: reset, what each operation may write, the tables, pin writes, refresh
ticks, free samples, and the invariant every step keeps (spec/10_state.md). -/

namespace Sys2Proof.Proofs

open Sys2Proof.Machine Sys2Proof.Safety

/-! ## The invariant of the core -/

/-- What writes neither TRACE nor the wires keeps the invariant, if it keeps ES in range. -/
theorem coreInv_of_same_wires {s t : State} (h : CoreInv s) (hes : t.es.toNat < 6000) (htrace : t.trace = s.trace)
    (hwires : wiresOf t = wiresOf s) (hlink : t.link = s.link) : CoreInv t where
  elapsed := hes
  frames := htrace ▸ h.frames
  pins := by
    obtain ⟨hdata, hclock, hlatch, -, -⟩ := Wires.mk.inj hwires
    rw [htrace, hdata, hclock, hlatch]
    exact h.pins
  wires := by
    rw [htrace, hwires, hlink]
    exact h.wires

/-- A frame keeps the invariant: whatever the wires held at power-up, they end with that frame (R163, R301). -/
theorem coreInv_of_frame {s t : State} (h : CoreInv s) {f : Frame} (hes : t.es = s.es)
    (htrace : t.trace = s.trace ++ frameEvents f) (hdata : t.data = f.getLsbD 0) (hclock : t.clock = true)
    (hlatch : t.latch = true) (hchips : t.link = true → t.chain = f ∧ t.out = f) : CoreInv t := by
  have hreplay : ∀ chain out, replay t.trace (wiresAtPowerUp chain out) = ⟨f.getLsbD 0, true, true, f, f⟩ := by
    intro chain out
    rw [htrace, replay_append, replay_frameEvents]
  refine ⟨hes ▸ h.elapsed, ?frames, fun chain out => ?pins, fun hlink => ⟨0, 0, ?wires⟩⟩
  case frames =>
    obtain ⟨fs, hfs⟩ := h.frames
    exact ⟨fs ++ [f], by simp [htrace, hfs]⟩
  case pins =>
    rw [hreplay]
    exact ⟨hdata.symm, hclock.symm, hlatch.symm⟩
  case wires =>
    obtain ⟨hchain, hout⟩ := hchips hlink
    rw [hreplay, wiresOf, hdata, hclock, hlatch, hchain, hout]

theorem coreInv_powerOn (chain out : Frame) (s : State) : CoreInv (powerOn chain out s) where
  elapsed := (by decide : (0 : Elapsed).toNat < 6000)
  frames := ⟨[], rfl⟩
  pins := fun _ _ => ⟨rfl, rfl, rfl⟩
  wires := fun _ => ⟨chain, out, rfl⟩

/-- STEP keeps the invariant: a refresh sends one frame, and the other phases leave TRACE and the wires alone. -/
theorem execStep_keeps_coreInv {s t : State} (h : CoreInv s) (hf : s.flt = 0) (hstep : execStep s = .next t) :
    CoreInv t := by
  rcases execStep_cases hf h.elapsed hstep with
    ⟨-, rfl⟩ | ⟨-, rfl⟩ | ⟨-, -, rfl⟩ | ⟨-, -, seg, v, d, x, y, -, rfl, hchips⟩
  · refine coreInv_of_same_wires h ?_ (by simp) (by simp [wiresOf]) (by simp)
    have hes := h.elapsed
    dsimp only
    split
    · decide
    · exact hes
  · exact coreInv_of_same_wires h (by simpa using h.elapsed) (by simp) (by simp [wiresOf]) (by simp)
  · exact coreInv_of_same_wires h h.elapsed rfl rfl rfl
  · exact coreInv_of_frame h rfl rfl rfl rfl rfl hchips

/-- Every operation keeps the invariant: pin writes come only from whole frames, of WRITE and of a refresh (R44). -/
theorem exec_keeps_coreInv {i : Instr} {s t : State} (h : CoreInv s) (hexec : exec i s = .next t) : CoreInv t := by
  by_cases hf : s.flt = 0
  case neg =>
    rw [exec_of_halted i hf] at hexec
    exact Host.Outcome.next.inj hexec ▸ h
  case pos =>
    rcases exec_cases hf hexec with
      ⟨-, r, rfl⟩ | ⟨-, cause, rfl⟩ | ⟨a, b, -, rfl⟩ | ⟨-, rfl⟩ | ⟨-, rfl⟩ | ⟨-, rfl⟩ | ⟨-, hstep⟩
    · exact coreInv_of_same_wires h h.elapsed rfl rfl rfl
    · exact coreInv_of_same_wires h h.elapsed rfl rfl rfl
    · exact coreInv_of_frame h rfl rfl rfl rfl rfl fun hlink => ⟨if_pos hlink, if_pos hlink⟩
    · refine coreInv_of_same_wires h ?_ rfl rfl rfl
      exact (toNat_nextSecond h.elapsed).trans_lt (Nat.mod_lt _ (by decide))
    · exact coreInv_of_same_wires h (by decide : (0 : Elapsed).toNat < 6000) rfl rfl rfl
    · exact coreInv_of_same_wires h h.elapsed rfl rfl rfl
    · exact execStep_keeps_coreInv h hf hstep

/-- An illegal word writes at most FLT. -/
theorem execIllegal_keeps_coreInv {s t : State} (h : CoreInv s) (hexec : execIllegal s = .next t) : CoreInv t := by
  rcases whenRunning_next hexec with ⟨-, rfl⟩ | ⟨-, hraise⟩
  · exact h
  · obtain rfl := Host.Outcome.next.inj hraise
    exact coreInv_of_same_wires h h.elapsed rfl rfl rfl

theorem execWord_keeps_coreInv {w : OpWord} {s t : State} (h : CoreInv s) (hexec : execWord w s = .next t) :
    CoreInv t := by
  unfold execWord at hexec
  split at hexec
  · exact exec_keeps_coreInv h hexec
  · exact execIllegal_keeps_coreInv h hexec

theorem execEvent_keeps_coreInv {event : Event} {s t : State} (h : CoreInv s) (hexec : execEvent event s = .next t) :
    CoreInv t := by
  cases event with
  | word w inputs =>
    have hshown : CoreInv (showInputs inputs s) := coreInv_of_same_wires h h.elapsed rfl rfl rfl
    exact execWord_keeps_coreInv hshown hexec
  | powerOn chain out => exact Host.Outcome.next.inj hexec ▸ coreInv_powerOn chain out s

theorem takeEvent_keeps_coreInv {s : State} (h : CoreInv s) : CoreInv (takeEvent s).2 := by
  rw [takeEvent_snd]
  exact coreInv_of_same_wires h h.elapsed rfl rfl rfl

/-- Settles O54: taking the event keeps the invariant, and so does the event, a power-on by making TRACE empty and a
word by writing either no pin or one frame. -/
theorem everyStepKeepsTheInvariant : Obligations.EveryStepKeepsTheInvariant :=
  fun _ _ h hstep => execEvent_keeps_coreInv (takeEvent_keeps_coreInv h) hstep

/-! ## Refresh ticks -/

theorem exec_rtick_of_running {s : State} (hf : s.flt = 0) : exec .rtick s = .next (setPending s) :=
  execFor_rtick hf standard

theorem execAll_cons_of_next {o : Issue} {os : List Issue} {s t : State}
    (h : exec o.op (showInputs o.inputs s) = .next t) : execAll (o :: os) s = execAll os t := by
  simp only [execAll, h]

/-- Settles O34, by induction on the number of ticks: after the first one PR is set, and one more changes nothing. -/
theorem refreshTicksCoalesce : Obligations.RefreshTicksCoalesce := by
  intro s n hf
  induction n generalizing s with
  | zero => exact (execAll_cons_of_next (exec_rtick_of_running hf)).trans (exec_rtick_of_running hf).symm
  | succ n ih =>
    calc execAll (List.replicate (n + 2) { op := .rtick, inputs := s.inputs }) s
        = execAll (List.replicate (n + 1) { op := .rtick, inputs := s.inputs }) (setPending s) :=
          execAll_cons_of_next (exec_rtick_of_running hf)
      _ = exec .rtick (setPending s) := ih (setPending s) hf
      _ = .next (setPending s) := exec_rtick_of_running hf
      _ = exec .rtick s := (exec_rtick_of_running hf).symm

/-! ## What each operation may write -/

/-- The renderer fails only with ES out of range. -/
theorem ge_of_renderDigit_error {mode : Mode} {p : Position} {e : Elapsed} {c : Code} {cause : FaultCause}
    (h : renderDigit mode p e c = .error cause) : 6000 ≤ e.toNat := by
  by_contra hlt
  obtain ⟨b, hb⟩ := renderDigit_ok mode p c (Nat.not_le.mp hlt)
  rw [h] at hb
  cases hb

/-- A refresh whose renderer fails writes FLT alone: neither PR nor the sample is kept (R280). -/
theorem stepP3_fault {s : State} (hpr : s.pr = true) {cause : FaultCause}
    (hfault : renderDigit s.mode s.ad s.es (holdVoltage (clearPending s)).vh = .error cause) :
    stepP3 s = .next { s with flt := faultCode cause } := by
  have hheld : renderDigit (holdVoltage (clearPending s)).mode (holdVoltage (clearPending s)).ad
      (holdVoltage (clearPending s)).es (holdVoltage (clearPending s)).vh = .error cause := by
    rw [holdVoltage_eq]
    exact hfault
  simp only [stepP3, if_pos hpr, hheld, finish_error]

theorem phase_cases (ph : Phase) : ph = .p1 ∨ ph = .p2 ∨ ph = .p3 := by
  cases ph <;> simp

/-- What STEP may write on a running core, phase by phase, whether ES is in range or not. -/
theorem execStep_writes {s t : State} (hf : s.flt = 0) (h : execStep s = .next t) :
    (s.ph = .p1 ∧ ∃ e d, t = { s with es := e, ph := .p2, draws := d }) ∨
    (s.ph = .p2 ∧ ∃ m d, t = { s with mode := m, ph := .p3, draws := d }) ∨
    (s.ph = .p3 ∧ s.pr = false ∧ t = { s with ph := .p1 }) ∨
    (s.ph = .p3 ∧ s.pr = true ∧ ∃ v d, ∃ w : Wires, ∃ tr a, t =
      { s with
        pr := false, vh := v, draws := d, data := w.data, clock := w.clock, latch := w.latch, chain := w.chain,
        out := w.out, trace := tr, ad := a, ph := .p1 }) ∨
    (s.ph = .p3 ∧ s.pr = true ∧ 6000 ≤ s.es.toNat ∧ ∃ cause, t = { s with flt := faultCode cause }) := by
  rcases phase_cases s.ph with hp | hp | hp
  · rw [execStep_p1 hf hp, stepP1_eq, sampleResetN_snd] at h
    exact .inl ⟨hp, _, _, (Host.Outcome.next.inj h).symm⟩
  · rw [execStep_p2 hf hp, stepP2_eq, sampleModeN_snd] at h
    exact .inr (.inl ⟨hp, _, _, (Host.Outcome.next.inj h).symm⟩)
  · rw [execStep_p3 hf hp] at h
    rcases Bool.eq_false_or_eq_true s.pr with hpr | hpr
    · rcases hseg : renderDigit s.mode s.ad s.es (holdVoltage (clearPending s)).vh with cause | seg
      · rw [stepP3_fault hpr hseg] at h
        exact .inr (.inr (.inr (.inr ⟨hp, hpr, ge_of_renderDigit_error hseg, cause,
          (Host.Outcome.next.inj h).symm⟩)))
      · rw [stepP3_refresh hpr hseg] at h
        exact .inr (.inr (.inr (.inl ⟨hp, hpr, _, _, ⟨_, _, _, _, _⟩, _, _, (Host.Outcome.next.inj h).symm⟩)))
    · rw [stepP3_idle hpr] at h
      exact .inr (.inr (.inl ⟨hp, hpr, (Host.Outcome.next.inj h).symm⟩))

/-- Settles O49: a halted core writes nothing, and on a running one each operation writes what exec_cases and, for STEP,
execStep_writes list. -/
theorem operationsWriteOnlyTheirOwnState : Obligations.OperationsWriteOnlyTheirOwnState := by
  intro i s t h
  by_cases hf : s.flt = 0
  case neg =>
    rw [exec_of_halted i hf] at h
    obtain rfl := Host.Outcome.next.inj h
    simp
  case pos =>
    rcases exec_cases hf h with
      ⟨hquery, r, rfl⟩ | ⟨hfault, cause, rfl⟩ | ⟨a, b, rfl, rfl⟩ | ⟨rfl, rfl⟩ | ⟨rfl, rfl⟩ | ⟨rfl, rfl⟩ | ⟨rfl, hstep⟩
    · simp [hquery]
    · simp [hfault]
    · cases hl : s.link <;> simp
    · simp
    · simp
    · simp
    · rcases execStep_writes hf hstep with
        ⟨hp, e, d, rfl⟩ | ⟨hp, m, d, rfl⟩ | ⟨hp, hpr, rfl⟩ | ⟨hp, hpr, v, d, w, tr, a, rfl⟩ |
        ⟨hp, hpr, hes, cause, rfl⟩
      · simp [hp]
      · simp [hp]
      · simp
      · simp [hp, hpr]
      · simp [Nat.not_lt.mpr hes]

/-! ## Power-on reset -/

/-- Settles O1: a power-on event keeps the board's setting and what the environment has ready, and no register. -/
theorem powerOnResetGivesEveryRegisterItsResetValue : Obligations.PowerOnResetGivesEveryRegisterItsResetValue :=
  ⟨fun _ _ _ _ hev => step_of_event hev, ⟨_, _, rfl⟩, rfl, rfl⟩

/-! ## The select table -/

/-- Bit `i` of the low nibble of a select byte is set at its own position alone. -/
theorem getLsbD_selROM_low (p : Position) : ∀ i < 4, (selROM p).getLsbD i = decide (i = p.toNat) := by
  revert p; decide

theorem getLsbD_selROM_high (p : Position) : ∀ i, 4 ≤ i → i < 8 → (selROM p).getLsbD i = true := by
  revert p; decide

theorem drivenPosition_selROM (p : Position) : drivenPosition (selROM p) = some p := by
  revert p; decide

/-- Settles O15: the bits of the four entries of the table, and the board's search for a position by them. -/
theorem selectByteDrivesExactlyItsPosition : Obligations.SelectByteDrivesExactlyItsPosition :=
  fun p => ⟨getLsbD_selROM_low p, getLsbD_selROM_high p, drivenPosition_selROM p⟩

/-! ## Pin writes -/

/-- With the link there, a pin write drives the wires and is appended to TRACE, and nothing else changes. -/
theorem emit_of_link {s : State} (hl : s.link = true) (e : PinEvent) :
    emit e s = { putWires (driveWire e (wiresOf s)) s with trace := s.trace ++ [e] } :=
  emitAll_eq [e] hl

/-- A write of 0, or one over a 1, is no rising edge. -/
theorem not_rising {level before : Level} (h : level = false ∨ before = true) : (level && !before) = false := by
  rcases h with rfl | rfl <;> simp

/-- Settles O27: each clause is the pin's arm of driveWire, on a rising edge or on any other write. -/
theorem pinWriteDrivesTheChainOnRisingEdges : Obligations.PinWriteDrivesTheChainOnRisingEdges := by
  intro s hl
  simp only [emit_of_link hl]
  refine ⟨fun l => rfl, fun l h => ?clockStill, fun h => ⟨shiftIn s.chain s.data, ?clockRises, ?newBit, ?oldBits⟩,
    fun l h => ?latchStill, fun h => ?latchRises⟩
  case clockStill => simp [driveWire, wiresOf, putWires, not_rising h]
  case clockRises => simp [driveWire, wiresOf, putWires, h]
  case newBit => exact getLsbD_shiftIn s.chain s.data 0 (by decide)
  case oldBits =>
    intro i hi
    rw [getLsbD_shiftIn s.chain s.data (i + 1) (by omega), if_neg (Nat.succ_ne_zero i), Nat.add_sub_cancel]
  case latchStill => simp [driveWire, wiresOf, putWires, not_rising h]
  case latchRises => simp [driveWire, wiresOf, putWires, h]

/-! ## Free samples -/

theorem sampleResetN_of_free {s : State} (h : s.inputs.resetN = none) :
    sampleResetN s = (Config.freeResetN s.draws, { s with draws := s.draws + 1 }) := by
  rw [sampleResetN, h, sample_none]

theorem sampleModeN_of_free {s : State} (h : s.inputs.modeN = none) :
    sampleModeN s = (Config.freeModeN s.draws, { s with draws := s.draws + 1 }) := by
  rw [sampleModeN, h, sample_none]

/-- Settles O38: the sample is the free value of the draw counter, and the phase follows it as it does an offered one. -/
theorem unofferedButtonLevelsAreFreeDraws : Obligations.UnofferedButtonLevelsAreFreeDraws := by
  refine fun s hf => ⟨fun hp hfree => ?reset, fun hp hfree => ?mode⟩
  case reset =>
    have hexec : exec .step s = stepP1 s := execStep_p1 hf hp
    rw [hexec, stepP1_eq, sampleResetN_of_free hfree]
    simp [pressed]
  case mode =>
    have hexec : exec .step s = stepP2 s := execStep_p2 hf hp
    rw [hexec, stepP2_eq, sampleModeN_of_free hfree]
    simp [pressed, modeOf]

/-- Settles O41: the free code is held before the refresh renders, and the frame sent carries what it renders. -/
theorem refreshTakesAFreeDrawOfPot : Obligations.RefreshTakesAFreeDrawOfPot := by
  intro s hf hes hp hpr hpolicy hfree
  have hhold : holdVoltage (clearPending s) =
      { clearPending s with vh := Config.freePot s.draws, draws := s.draws + 1 } :=
    holdVoltage_of_free (samplesPot_iff.mpr hpolicy) hfree
  obtain ⟨seg, hseg⟩ := renderDigit_ok s.mode s.ad (Config.freePot s.draws) hes
  have hexec : exec .step s = stepP3 s := execStep_p3 hf hp
  rw [hexec, stepP3_refresh hpr (by rw [hhold]; exact hseg), hhold]
  refine ⟨_, rfl, rfl, rfl, seg, hseg, rfl, fun hl => ?_⟩
  simp [hl]

end Sys2Proof.Proofs

/-! SUPPORT. Proofs of the statements on the order of operations (spec/20_memory.md): two agents' operations in a row,
in either order. -/

namespace Sys2Proof.Proofs

open Sys2Proof.Machine Sys2Proof.Safety

/-! ## Two operations in a row -/

theorem execAll_pair_of_next {a b : Issue} {s t u : State} (ha : exec a.op (showInputs a.inputs s) = .next t)
    (hb : exec b.op (showInputs b.inputs t) = .next u) : execAll [a, b] s = .next u :=
  (execAll_cons_of_next ha).trans (execAll_cons_of_next hb)

/-- A STEP at P3 leaves no refresh pending, and advances just when one was (R253). -/
theorem exec_step_p3_of_running {s : State} (hf : s.flt = 0) (hes : s.es.toNat < 6000) (hp : s.ph = .p3) :
    ∃ t, exec .step s = .next t ∧ t.flt = 0 ∧ t.pr = false ∧ t.ph = .p1 ∧
      t.ad = if s.pr then s.ad + 1 else s.ad := by
  have hexec : exec .step s = stepP3 s := execStep_p3 hf hp
  cases hpr : s.pr with
  | true =>
    obtain ⟨seg, hseg⟩ := renderDigit_ok s.mode s.ad (holdVoltage (clearPending s)).vh hes
    exact ⟨_, hexec.trans (stepP3_refresh hpr hseg), hf, rfl, rfl, rfl⟩
  | false => exact ⟨_, hexec.trans (stepP3_idle hpr), hf, hpr, rfl, rfl⟩

/-- Settles O35: STEP at P3 leaves PR clear, so it serves an RTICK before it, and one after it sets PR anew. -/
theorem refreshTickIsConsumedOrKept : Obligations.RefreshTickIsConsumedOrKept := by
  refine fun s hf hes hp => ⟨?consumed, ?kept⟩
  case consumed =>
    obtain ⟨t, hstep, -, hpr, hph, had⟩ :=
      exec_step_p3_of_running (s := showInputs { } (setPending (showInputs { } s))) hf hes hp
    exact ⟨t, execAll_pair_of_next (exec_rtick_of_running hf) hstep, hpr, had, hph⟩
  case kept =>
    obtain ⟨t, hstep, htf, -, hph, had⟩ := exec_step_p3_of_running (s := showInputs { } s) hf hes hp
    exact ⟨_, execAll_pair_of_next hstep (exec_rtick_of_running htf), rfl, hph, had⟩

/-! ## The second counter and its resets -/

theorem exec_tick_of_running {s : State} (hf : s.flt = 0) : exec .tick s = .next { s with es := nextSecond s.es } :=
  execFor_tick hf standard

theorem exec_treset_of_running {s : State} (hf : s.flt = 0) : exec .treset s = .next (resetElapsed s) := by
  simp only [exec, execTreset, whenRunning_of_running hf]

/-- A STEP at P1 that finds the reset button pressed clears ES (R251). -/
theorem exec_step_p1_of_pressed {s : State} (hf : s.flt = 0) (hp : s.ph = .p1) (hpress : s.inputs.resetN = some false) :
    exec .step s = .next { s with es := 0, ph := .p2 } := by
  have hexec : exec .step s = stepP1 s := execStep_p1 hf hp
  have hsample : sampleResetN s = (false, s) := by rw [sampleResetN, hpress, sample_some]
  rw [hexec, stepP1_eq, hsample]
  rfl

/-- Settles O32: a reset clears ES whatever the TICK before it left there, and a TICK after one counts from 0. -/
theorem lastOfTickAndResetDecidesTheCounter : Obligations.LastOfTickAndResetDecidesTheCounter :=
  fun _ _ hf hpress =>
    ⟨execAll_pair_of_next (exec_tick_of_running hf) (exec_treset_of_running hf),
      execAll_pair_of_next (exec_treset_of_running hf) (exec_tick_of_running hf),
      fun hp =>
        ⟨execAll_pair_of_next (exec_tick_of_running hf) (exec_step_p1_of_pressed hf hp hpress),
          execAll_pair_of_next (exec_step_p1_of_pressed hf hp hpress) (exec_tick_of_running hf)⟩⟩

end Sys2Proof.Proofs

/-! SUPPORT. Proofs of the statements on the encoding (spec/30_encoding.md): the decoder against the encoder, the opcode
map, the illegal words, the assembler, and the decimal point of the segment patterns. -/

namespace Sys2Proof.Proofs

open Sys2Proof.Machine

/-! ## From an operation to its word and back -/

theorem encodesItsRow (i : Instr) : Laws.EncodesItsRow.Statement i := by
  cases i with
  | segenc d => exact Laws.EncodesItsRow.segenc d
  | selenc p => exact Laws.EncodesItsRow.selenc p
  | splitt e => exact Laws.EncodesItsRow.splitt e
  | splitv c => exact Laws.EncodesItsRow.splitv c
  | rendt p e => exact Laws.EncodesItsRow.rendt p e
  | rendv p c => exact Laws.EncodesItsRow.rendv p c
  | write s t => exact Laws.EncodesItsRow.write s t
  | tick => exact Laws.EncodesItsRow.tick
  | treset => exact Laws.EncodesItsRow.treset
  | tread => exact Laws.EncodesItsRow.tread
  | rtick => exact Laws.EncodesItsRow.rtick
  | step => exact Laws.EncodesItsRow.step

/-- A field with one field below it. -/
theorem extractLsb'_append_middle {l m n : Nat} (hi : BitVec l) (x : BitVec m) (lo : BitVec n) :
    (hi ++ x ++ lo).extractLsb' n m = x := by
  rw [BitVec.extractLsb'_append_eq_of_le le_rfl, Nat.sub_self, BitVec.extractLsb'_append_eq_right]

/-- A field with two fields below it. -/
theorem extractLsb'_append_middle_of_two {l m n k : Nat} (hi : BitVec l) (x : BitVec m) (y : BitVec n) (lo : BitVec k) :
    (hi ++ x ++ y ++ lo).extractLsb' (n + k) m = x := by
  rw [BitVec.extractLsb'_append_eq_of_le (Nat.le_add_left k n), Nat.add_sub_cancel, extractLsb'_append_middle]

/-- An operation's row reads its operands from its word (R107). -/
theorem fields_encode (i : Instr) {r : OpRow} (hr : opRows[i.rowIndex]? = some r) : r.fields (encode i) = i := by
  cases i with
  | segenc d =>
    obtain rfl := Option.some.inj hr
    exact congrArg Instr.segenc BitVec.extractLsb'_append_eq_right
  | selenc p =>
    obtain rfl := Option.some.inj hr
    exact congrArg Instr.selenc BitVec.extractLsb'_append_eq_right
  | splitt e =>
    obtain rfl := Option.some.inj hr
    exact congrArg Instr.splitt BitVec.extractLsb'_append_eq_right
  | splitv c =>
    obtain rfl := Option.some.inj hr
    exact congrArg Instr.splitv BitVec.extractLsb'_append_eq_right
  | rendt p e =>
    obtain rfl := Option.some.inj hr
    exact congrArg₂ Instr.rendt (extractLsb'_append_middle_of_two (0x5#4 ++ 0#2) p 0#11 e)
      BitVec.extractLsb'_append_eq_right
  | rendv p c =>
    obtain rfl := Option.some.inj hr
    exact congrArg₂ Instr.rendv (extractLsb'_append_middle_of_two (0x6#4 ++ 0#2) p 0#8 c)
      BitVec.extractLsb'_append_eq_right
  | write s t =>
    obtain rfl := Option.some.inj hr
    exact congrArg₂ Instr.write (extractLsb'_append_middle (0x7#4 ++ 0#12) s t) BitVec.extractLsb'_append_eq_right
  | tick | treset | tread | rtick | step =>
    obtain rfl := Option.some.inj hr
    rfl

theorem decode_encode (i : Instr) : decode (encode i) = .ok i := by
  obtain ⟨-, r, hr, hsel⟩ := encodesItsRow i
  obtain ⟨hk, rfl⟩ := List.getElem?_eq_some_iff.mp hr
  rw [decode_of_selects hk ((selects_iff ..).mpr hsel), fields_encode i hr]

/-- Settles O5: the operation's word selects the operation's row, and that row reads back each operand. -/
theorem decodeOfEncodeIsTheOperation : Obligations.DecodeOfEncodeIsTheOperation := decode_encode

/-- A field that a mask covers is the pattern's, in a word that matches the pattern under the mask. -/
theorem eq_extractLsb'_of_and_eq {n start len : Nat} {w mask pattern : BitVec n} {v : BitVec len}
    (h : w &&& mask = pattern) (hmask : mask.extractLsb' start len = BitVec.allOnes len)
    (hpattern : pattern.extractLsb' start len = v) : v = w.extractLsb' start len := by
  rw [← hpattern, ← h, BitVec.extractLsb'_and, hmask, BitVec.and_allOnes]

/-- Two fields that stand side by side in a word are together a field of it. -/
theorem append_eq_extractLsb' {k m n start : Nat} {w : BitVec k} {x : BitVec m} {y : BitVec n}
    (hx : x = w.extractLsb' (start + n) m) (hy : y = w.extractLsb' start n) :
    x ++ y = w.extractLsb' start (m + n) := by
  rw [hx, hy, BitVec.extractLsb'_append_extractLsb'_eq_extractLsb' rfl]

/-- A word that selects a row is the word of the operation that the row reads from it: the row's mask fixes the opcode
and the reserved fields, and the other fields are the operands. -/
theorem encode_fields_of_selects {r : OpRow} (hr : r ∈ opRows) {w : OpWord} (h : w &&& r.mask = r.pattern) :
    encode (r.fields w) = w := by
  simp only [opRows, List.mem_cons, List.not_mem_nil, or_false] at hr
  rcases hr with rfl | rfl | rfl | rfl | rfl | rfl | rfl | rfl | rfl | rfl | rfl | rfl
  · have hfixed : 0x1#4 ++ 0#24 = w.extractLsb' 4 28 := eq_extractLsb'_of_and_eq h rfl rfl
    exact (append_eq_extractLsb' hfixed rfl).trans BitVec.extractLsb'_eq_self
  · have hfixed : 0x2#4 ++ 0#26 = w.extractLsb' 2 30 := eq_extractLsb'_of_and_eq h rfl rfl
    exact (append_eq_extractLsb' hfixed rfl).trans BitVec.extractLsb'_eq_self
  · have hfixed : 0x3#4 ++ 0#15 = w.extractLsb' 13 19 := eq_extractLsb'_of_and_eq h rfl rfl
    exact (append_eq_extractLsb' hfixed rfl).trans BitVec.extractLsb'_eq_self
  · have hfixed : 0x4#4 ++ 0#12 = w.extractLsb' 16 16 := eq_extractLsb'_of_and_eq h rfl rfl
    exact (append_eq_extractLsb' hfixed rfl).trans BitVec.extractLsb'_eq_self
  · have hfixed : 0x5#4 ++ 0#2 = w.extractLsb' 26 6 := eq_extractLsb'_of_and_eq h rfl rfl
    have hgap : 0#11 = w.extractLsb' 13 11 := eq_extractLsb'_of_and_eq h rfl rfl
    have hposition : 0x5#4 ++ 0#2 ++ w.extractLsb' 24 2 = w.extractLsb' 24 8 := append_eq_extractLsb' hfixed rfl
    exact (append_eq_extractLsb' (append_eq_extractLsb' hposition hgap) rfl).trans BitVec.extractLsb'_eq_self
  · have hfixed : 0x6#4 ++ 0#2 = w.extractLsb' 26 6 := eq_extractLsb'_of_and_eq h rfl rfl
    have hgap : 0#8 = w.extractLsb' 16 8 := eq_extractLsb'_of_and_eq h rfl rfl
    have hposition : 0x6#4 ++ 0#2 ++ w.extractLsb' 24 2 = w.extractLsb' 24 8 := append_eq_extractLsb' hfixed rfl
    exact (append_eq_extractLsb' (append_eq_extractLsb' hposition hgap) rfl).trans BitVec.extractLsb'_eq_self
  · have hfixed : 0x7#4 ++ 0#12 = w.extractLsb' 16 16 := eq_extractLsb'_of_and_eq h rfl rfl
    exact (append_eq_extractLsb' (append_eq_extractLsb' hfixed rfl) rfl).trans BitVec.extractLsb'_eq_self
  all_goals exact (eq_extractLsb'_of_and_eq h rfl rfl).trans BitVec.extractLsb'_eq_self

/-- Settles O6: the word selects the row it decodes by, and that row's operation is encoded as the word. -/
theorem encodeOfDecodedIsTheWord : Obligations.EncodeOfDecodedIsTheWord := by
  intro w i h
  obtain ⟨r, hr, hsel, rfl⟩ := selects_of_decode h
  exact encode_fields_of_selects hr hsel

/-! ## The opcode map -/

theorem decode_of_mem_opRows {r : OpRow} (hr : r ∈ opRows) {w : OpWord} (h : w &&& r.mask = r.pattern) :
    decode w = .ok (r.fields w) := by
  obtain ⟨k, hk, rfl⟩ := List.getElem_of_mem hr
  exact decode_of_selects hk ((selects_iff ..).mpr h)

/-- No two rows of the map are selected by one word. -/
theorem pairwise_not_both_selected (w : OpWord) :
    opRows.Pairwise (fun r q => r.selects w = true → q.selects w = true → False) := by
  rw [List.pairwise_iff_getElem]
  intro k j hk hj hlt hr hq
  exact hlt.ne (selected_row_unique hk hj hr hq)

/-- A list of which no two elements meet a test has at most one that does. -/
theorem length_filter_le_one {α : Type} {p : α → Bool} {l : List α}
    (h : l.Pairwise (fun a b => p a = true → p b = true → False)) : (l.filter p).length ≤ 1 := by
  rw [← List.pairwise_filter] at h
  match l.filter p, h with
  | [], _ => exact Nat.zero_le 1
  | [_], _ => exact le_rfl
  | _ :: b :: _, h => exact (List.rel_of_pairwise_cons h (List.mem_cons_self (a := b))).elim

/-- Settles O7: the table row by row, and the masks and patterns that tell its rows apart. -/
theorem opcodeMapIsTheTableAndRowsDoNotOverlap : Obligations.OpcodeMapIsTheTableAndRowsDoNotOverlap :=
  ⟨rfl, fun w => ⟨length_filter_le_one (pairwise_not_both_selected w), fun _ hr => decode_of_mem_opRows hr⟩⟩

/-! ## Illegal words -/

/-- A word is its opcode and the 28 bits below it. -/
theorem eq_iff_opcode_and_rest {x y : OpWord} :
    x = y ↔ x >>> 28 = y >>> 28 ∧ x &&& 0x0FFFFFFF = y &&& 0x0FFFFFFF := by
  have hrest : ∀ z : OpWord, (z &&& 0x0FFFFFFF).toNat = z.toNat % 2 ^ 28 := fun z =>
    Nat.and_two_pow_sub_one_eq_mod z.toNat 28
  simp only [← BitVec.toNat_inj, hrest, BitVec.toNat_ushiftRight, Nat.shiftRight_eq_div_pow]
  omega

/-- Every mask covers the opcode, and no pattern has a bit set below it (R108). -/
theorem opRows_cover_opcode : ∀ r ∈ opRows,
    r.mask >>> 28 = BitVec.allOnes 32 >>> 28 ∧ r.pattern &&& 0x0FFFFFFF = 0 := by
  simp only [opRows, List.forall_mem_cons]
  decide

/-- A word selects a row when it has the row's opcode and no reserved bit of its format (R109). -/
theorem and_mask_eq_pattern_iff {r : OpRow} (hr : r ∈ opRows) {w : OpWord} :
    w &&& r.mask = r.pattern ↔ w >>> 28 = r.pattern >>> 28 ∧ w &&& (r.mask &&& 0x0FFFFFFF) = 0 := by
  obtain ⟨hmask, hpattern⟩ := opRows_cover_opcode r hr
  rw [eq_iff_opcode_and_rest, BitVec.ushiftRight_and_distrib, hmask, ← BitVec.ushiftRight_and_distrib,
    BitVec.and_allOnes, BitVec.and_assoc, hpattern]

/-- A word is illegal when it has a reserved bit set in every row with its opcode, if there is one. -/
theorem decode_error_iff {w : OpWord} : (∃ why, decode w = .error why) ↔
    ∀ r ∈ opRows, w >>> 28 = r.pattern >>> 28 → w &&& (r.mask &&& 0x0FFFFFFF) ≠ 0 := by
  constructor
  · rintro ⟨why, h⟩ r hr hop hres
    rw [decode_of_mem_opRows hr ((and_mask_eq_pattern_iff hr).mpr ⟨hop, hres⟩)] at h
    cases h
  · intro h
    cases hd : decode w with
    | error why => exact ⟨why, rfl⟩
    | ok i =>
      obtain ⟨r, hr, hsel, -⟩ := selects_of_decode hd
      obtain ⟨hop, hres⟩ := (and_mask_eq_pattern_iff hr).mp hsel
      exact absurd hres (h r hr hop)

theorem opcode_lt (w : OpWord) : (w >>> 28).toNat < 16 := by
  rw [BitVec.toNat_ushiftRight, Nat.shiftRight_eq_div_pow]
  have := w.isLt
  omega

theorem step_of_illegal_word {s : State} {w : OpWord} {inputs : Inputs} {rest : List Event} {why : DecodeReject}
    (hf : s.flt = 0) (hev : s.events = .word w inputs :: rest) (hd : decode w = .error why) :
    step s = .next { s with events := rest, inputs := inputs, flt := 1 } := by
  rw [step_of_event hev]
  simp only [execEvent, execWord, hd]
  exact whenRunning_of_running hf

/-- Settles O8: a word selects no row when its OP has none, or when it sets a bit its OP's row reserves; so each of the
sixteen values of OP is one case. -/
theorem illegalWordsAreTheReservedOnesAndRaiseIllegalOp :
    Obligations.IllegalWordsAreTheReservedOnesAndRaiseIllegalOp := by
  refine ⟨fun w => ?_, fun _ _ _ _ _ => step_of_illegal_word⟩
  rw [decode_error_iff]
  simp only [opRows, List.forall_mem_cons, ← BitVec.toNat_inj (x := w >>> 28)]
  have hop := opcode_lt w
  generalize (w >>> 28).toNat = op at hop ⊢
  interval_cases op <;> simp

/-! ## The assembler -/

theorem inFields_toAsm (i : Instr) : i.toAsm.inFields = i := by
  cases i <;> simp [Instr.toAsm, AsmOp.inFields]

theorem assemble_toAsm (i : Instr) : i.toAsm.assemble = some i := by
  obtain ⟨hwf : i.toAsm.wellFormed = true, -⟩ := encodesItsRow i
  rw [AsmOp.assemble, if_pos hwf, inFields_toAsm]

theorem assembles_iff_wellFormed {a : AsmOp} : (∃ i, a.assemble = some i) ↔ a.wellFormed = true := by
  simp [AsmOp.assemble]

/-- Settles O10: assembly fails only on a line that is not well-formed, and being so is the limits of R113. -/
theorem assemblerAcceptsExactlyOperandsThatFit : Obligations.AssemblerAcceptsExactlyOperandsThatFit := by
  refine ⟨assemble_toAsm, ?_⟩
  simp [assembles_iff_wellFormed, AsmOp.wellFormed]

/-- A list of operations assembles from its lines. -/
theorem assembleAll_map_toAsm (is : List Instr) : assembleAll (is.map Instr.toAsm) = some is := by
  induction is with
  | nil => rfl
  | cons i is ih => simp only [List.map_cons, assembleAll, assemble_toAsm, ih]

theorem assemble_ticks (n : Nat) : (AsmLine.ticks n).assemble = some (List.replicate n .tick) := by
  have hlines : List.replicate n AsmOp.tick = (List.replicate n Instr.tick).map Instr.toAsm := by
    rw [List.map_replicate]; rfl
  simp only [AsmLine.assemble, AsmLine.expand, hlines, assembleAll_map_toAsm]

/-- Settles O11: each expansion is the list of the lines of its operations. -/
theorem pseudoOperationsStandForTheirExpansions : Obligations.PseudoOperationsStandForTheirExpansions :=
  ⟨assembleAll_map_toAsm [.step, .step, .step], assembleAll_map_toAsm [.rtick, .step, .step, .step], assemble_ticks,
    fun p e c => ⟨assembleAll_map_toAsm [.rendt p e], assembleAll_map_toAsm [.rendv p c]⟩⟩

/-- Settles O9: each of the words, bit for bit, is the encoder's for its operation. -/
theorem sampleWordsDecodeToTheirOperations : Obligations.SampleWordsDecodeToTheirOperations :=
  ⟨decode_encode (.segenc 2), decode_encode (.selenc 3), decode_encode (.splitt 5999), decode_encode (.splitv 32768),
    decode_encode (.rendt 1 125), decode_encode (.rendv 3 65535), decode_encode (.write 0xC0 0xF1), decode_encode .tick,
    decode_encode .treset, decode_encode .tread, decode_encode .rtick, decode_encode .step⟩

/-! ## The decimal point -/

theorem not_pointLit_segTable {k : Nat} (h : k < 10) : ¬ pointLit (segTable.getD k 0) = true := by
  revert k; decide

theorem pointLit_withPoint (b : Byte) : pointLit (withPoint b) = true := by
  simp [pointLit, lit, withPoint]

theorem lt_of_timerDigit_ok {p : Position} {e : Elapsed} {b : Byte} (h : timerDigit p e = .ok b) : e.toNat < 6000 := by
  by_contra hge
  rw [timerDigit_of_ge p (Nat.not_lt.mp hge)] at h
  cases h

theorem pointLit_of_timerDigit {p : Position} {e : Elapsed} {b : Byte} (h : timerDigit p e = .ok b) :
    pointLit b = true ↔ p = 1 := by
  have hlt := lt_of_timerDigit_ok h
  rw [timerDigit_of_lt p hlt] at h
  obtain rfl := Except.ok.inj h
  split_ifs with hp0 hp1 hp2
  · exact iff_of_false (not_pointLit_segTable (by omega)) (hp0 ▸ by decide)
  · exact iff_of_true (pointLit_withPoint _) hp1
  · exact iff_of_false (not_pointLit_segTable (by omega)) hp1
  · exact iff_of_false (not_pointLit_segTable (by omega)) hp1

theorem pointLit_of_voltDigit {p : Position} {c : Code} {b : Byte} (h : voltDigit p c = .ok b) :
    pointLit b = true ↔ p = 0 := by
  rw [voltDigit_eq] at h
  obtain rfl := Except.ok.inj h
  split_ifs with hp0 hp1 hp2
  · exact iff_of_true (pointLit_withPoint _) hp0
  · exact iff_of_false (not_pointLit_segTable (by omega)) hp0
  · exact iff_of_false (not_pointLit_segTable (by omega)) hp0
  · exact iff_of_false (by decide) hp0

/-- Settles O22: the table's bytes have the point dark, the mask lights it, and one position of each mode is masked. -/
theorem decimalPointShowsOnlyAtItsPosition : Obligations.DecimalPointShowsOnlyAtItsPosition :=
  fun _ _ _ _ => ⟨pointLit_of_timerDigit, pointLit_of_voltDigit⟩

end Sys2Proof.Proofs

/-! SUPPORT. Proofs of the statements on the segment encoder (spec/40_encoder.md): the two table lookups, and the
operations that read them. -/

namespace Sys2Proof.Proofs

open Sys2Proof.Machine

/-! ## The two operations on a running core -/

theorem exec_segenc_of_ok {s : State} {d : Digit} {b : Byte} (hf : s.flt = 0) (hb : segROM d = .ok b) :
    exec (.segenc d) s = .next { s with res := b.setWidth 32 } := by
  rw [← execFor_standard, execFor_segenc hf, hb]
  rfl

theorem exec_segenc_of_ge {s : State} {d : Digit} (hf : s.flt = 0) (hd : 10 ≤ d.toNat) :
    exec (.segenc d) s = .next { s with flt := 2 } := by
  rw [← execFor_standard, execFor_segenc hf, segROM, segEntry_of_ge standard hd]
  rfl

theorem exec_selenc_of_running {s : State} (p : Position) (hf : s.flt = 0) :
    exec (.selenc p) s = .next { s with res := (selROM p).setWidth 32 } :=
  execFor_selenc hf standard p

/-! ## The segment table -/

/-- The lookup answers a byte just where the table has one. -/
theorem segROM_eq_ok_iff {d : Digit} {b : Byte} : segROM d = .ok b ↔ segTable[d.toNat]? = some b := by
  cases htable : segTable[d.toNat]? with
  | none => simp [segROM_of_getElem?_none (P := standard) rfl htable]
  | some c => simp [segROM_of_getElem? (P := standard) rfl htable]

theorem nodup_segTable : segTable.Nodup := by decide

/-- Two digits with one segment byte are the same digit, as no byte stands twice in the table (R142). -/
theorem segROM_inj {d e : Digit} {b : Byte} (hd : segROM d = .ok b) (he : segROM e = .ok b) : d = e := by
  rw [segROM_eq_ok_iff] at hd he
  obtain ⟨_, hbyte⟩ := List.getElem?_eq_some_iff.mp hd
  obtain ⟨_, hbyte'⟩ := List.getElem?_eq_some_iff.mp he
  exact BitVec.eq_of_toNat_eq (nodup_segTable.getElem_inj_iff.mp (hbyte.trans hbyte'.symm))

/-- Settles O12: the operation ends as its lookup does, with the table's byte or with the fault. -/
theorem segencReadsTheTableOrFaultsOutOfRange : Obligations.SegencReadsTheTableOrFaultsOutOfRange :=
  fun _ _ hf => ⟨fun _ hb => exec_segenc_of_ok hf (segROM_eq_ok_iff.mpr hb), exec_segenc_of_ge hf⟩

/-! ## The select table -/

/-- The word of SELENC has the position in its low two bits (R141). -/
theorem encode_selenc (p : Position) : encode (.selenc p) = 0x20000000#32 ||| p.setWidth 32 := by
  revert p; decide

/-- Settles O13: the word is the encoder's, and the lookup gives the table's byte at every position. -/
theorem selencReadsTheTable : Obligations.SelencReadsTheTable := by
  refine ⟨rfl, fun p => ⟨?word, fun s b hf hb => ?result⟩⟩
  case word => rw [← encode_selenc, decode_encode]
  case result =>
    have hbyte : selROM p = b := selROM_of_getElem? hb
    rw [exec_selenc_of_running p hf, hbyte]

/-! ## The laws of the lookups -/

theorem res_of_exec {i : Instr} {s t : State} {r : OpWord} (h : exec i s = .next t)
    (hresult : exec i s = .next { s with res := r }) : t.res = r := by
  rw [hresult] at h
  exact Host.Outcome.next.inj h ▸ rfl

/-- Settles O14: the lookups are the tables' entries, which no state holds; so RES is the same after an operation in
one running state as in another. -/
theorem tableLookupLaws : Obligations.TableLookupLaws := by
  refine ⟨fun d b => segROM_eq_ok_iff.mpr, fun d e b => segROM_inj, fun p b => selROM_of_getElem? (P := standard),
    fun s s' hf hf' => ⟨fun d t t' hd h h' => ?segenc, fun p t t' h h' => ?selenc⟩⟩
  case segenc =>
    have hb : segROM d = .ok (segTable.getD d.toNat 0) := segEntry_of_lt hd
    exact (res_of_exec h (exec_segenc_of_ok hf hb)).trans (res_of_exec h' (exec_segenc_of_ok hf' hb)).symm
  case selenc =>
    exact (res_of_exec h (exec_selenc_of_running p hf)).trans (res_of_exec h' (exec_selenc_of_running p hf')).symm

end Sys2Proof.Proofs

/-! SUPPORT. Proofs of the statements on the serializer (spec/41_transport.md): WRITE and its frame on the pins, what a
frame does to the chain, and the core without the link to the chips. -/

namespace Sys2Proof.Proofs

open Sys2Proof.Machine

/-! ## WRITE sends its frame -/

/-- The word of WRITE has the segment byte in bits 15:8 and the select byte in bits 7:0 (R106). -/
theorem encode_write (a b : Byte) :
    encode (.write a b) = 0x70000000#32 ||| a.setWidth 32 <<< 8 ||| b.setWidth 32 := by
  have ha : a.toNat < 2 ^ 32 := a.isLt.trans (by decide)
  have hb : b.toNat < 2 ^ 32 := b.isLt.trans (by decide)
  have hshift : a.toNat <<< 8 < 2 ^ 32 := by
    have := a.isLt
    omega
  apply BitVec.eq_of_toNat_eq
  simp only [encode, BitVec.toNat_append, BitVec.toNat_or, BitVec.toNat_shiftLeft, BitVec.toNat_setWidth,
    Nat.mod_eq_of_lt ha, Nat.mod_eq_of_lt hb, Nat.mod_eq_of_lt hshift, Nat.shiftLeft_or_distrib]
  rfl

theorem frameEvents_eq (f : Frame) :
    frameEvents f = [⟨.latch, false⟩] ++ bitEvents f 16 ++ [⟨.latch, true⟩] := rfl

/-- The bits of a frame on the pins, from the highest down, three pin writes each (R161). -/
theorem bitEvents_eq_flatMap (f : Frame) (n : Nat) :
    bitEvents f n =
      (List.range n).reverse.flatMap (fun i => [⟨.data, f.getLsbD i⟩, ⟨.clock, false⟩, ⟨.clock, true⟩]) := by
  induction n with
  | zero => rfl
  | succ n ih => simp [bitEvents, ih, List.range_succ]

/-- The bits of a frame in the order they are sent (R161). -/
theorem range_sixteen_reverse : (List.range 16).reverse = [15, 14, 13, 12, 11, 10, 9, 8, 7, 6, 5, 4, 3, 2, 1, 0] := rfl

theorem getLsbD_zero_frameOf (a b : Byte) : (frameOf a b).getLsbD 0 = b.getLsbD 0 :=
  getLsbD_frameOf a b 0

theorem exec_write_of_running {s : State} (hf : s.flt = 0) (a b : Byte) :
    exec (.write a b) s = .next (serialize a b s) :=
  execFor_write hf standard a b

/-- Settles O23: WRITE is one Serialize, which sends the pin writes of its frame; serialize_eq says what the board makes
of them, with the link and without. -/
theorem writeSendsTheFrameOnThePins : Obligations.WriteSendsTheFrameOnThePins := by
  refine fun a b => ⟨?word, fun s hf => ⟨frameEvents (frameOf a b), ?events, length_frameEvents _, fun hl => ?linked,
    fun hl => ?unlinked⟩⟩
  case word => rw [← encode_write, decode_encode]
  case events =>
    rw [frameEvents_eq, bitEvents_eq_flatMap, range_sixteen_reverse]
    rfl
  case linked =>
    rw [exec_write_of_running hf, serialize_eq, getLsbD_zero_frameOf]
    simp [hl, frameOf]
  case unlinked =>
    rw [exec_write_of_running hf, serialize_eq, getLsbD_zero_frameOf]
    simp [hl]

/-! ## What a frame does to the chain -/

theorem shifted_append (es es' : List PinEvent) (w : Wires) :
    shifted (es ++ es') w = shifted es w ++ shifted es' (replay es w) := by
  induction es generalizing w with
  | nil => rfl
  | cons e es ih =>
    simp only [List.cons_append, shifted, replay_cons, ih]
    split <;> rfl

theorem committed_append (es es' : List PinEvent) (w : Wires) :
    committed (es ++ es') w = committed es w ++ committed es' (replay es w) := by
  induction es generalizing w with
  | nil => rfl
  | cons e es ih =>
    simp only [List.cons_append, committed, replay_cons, ih]
    split <;> rfl

/-- Each bit of a frame is one rising CLOCK edge that finds it on DATA, as CLOCK is set low before. -/
theorem shifted_bitEvents (f : Frame) (n : Nat) (w : Wires) :
    shifted (bitEvents f n) w = (List.range n).reverse.map (fun i => f.getLsbD i) := by
  induction n generalizing w with
  | zero => rfl
  | succ n ih => simp [bitEvents, shifted, driveWire, ih, List.range_succ]

/-- The bits of a frame move no LATCH, so they commit nothing. -/
theorem committed_bitEvents (f : Frame) (n : Nat) (w : Wires) : committed (bitEvents f n) w = [] := by
  induction n generalizing w with
  | zero => rfl
  | succ n ih => simp [bitEvents, committed, ih]

theorem shifted_frameEvents (f : Frame) (w : Wires) :
    shifted (frameEvents f) w = (List.range 16).reverse.map (fun i => f.getLsbD i) := by
  simp [frameEvents_eq, shifted, shifted_append, shifted_bitEvents]

/-- The one commit of a frame is of what OUT holds at its end, as LATCH stays low until its last pin write (R163). -/
theorem committed_frameEvents (f : Frame) (w : Wires) : committed (frameEvents f) w = [f] := by
  have hbits : committed ([⟨.latch, false⟩] ++ bitEvents f 16) w = [] := by
    simp [committed, committed_bitEvents]
  have hlow : (replay ([⟨.latch, false⟩] ++ bitEvents f 16) w).latch = false := by
    obtain ⟨hlatch, -⟩ := replay_bitEvents f 16 (driveWire ⟨.latch, false⟩ w)
    exact hlatch
  have hout : (driveWire ⟨.latch, true⟩ (replay ([⟨.latch, false⟩] ++ bitEvents f 16) w)).out = f := by
    have hend := replay_frameEvents f w
    rw [frameEvents_eq, replay_append] at hend
    exact congrArg Wires.out hend
  rw [frameEvents_eq, committed_append, hbits, List.nil_append]
  simp only [committed, hlow, hout, and_self, if_true]

/-- Settles O25: the CLOCK edges and the LATCH edge of a frame, and the wires at its end. -/
theorem frameShiftsSixteenBitsAndCommitsOnce : Obligations.FrameShiftsSixteenBitsAndCommitsOnce :=
  fun f w => ⟨shifted_frameEvents f w, committed_frameEvents f w, replay_frameEvents f w⟩

/-! ## The core without the link to the chips -/

/-- The same state on a board without the link. -/
def withoutLink (s : State) : State := { s with link := false }

/-- `u` is `t` on a board without the link, but for CHAIN, OUT and the draw counter (R165, I3). -/
def AgreeButForChips (t u : State) : Prop :=
  ∃ chain out draws, u = { t with link := false, chain := chain, out := out, draws := draws }

/-- Where `o` answers a next state, `o'` answers one that agrees with it but for the chips. -/
def SameButForChips (o o' : Outcome State Fault Refusal) : Prop :=
  ∀ t, o = .next t → ∃ u, o' = .next u ∧ AgreeButForChips t u

theorem agreeButForChips_withoutLink (s : State) : AgreeButForChips s (withoutLink s) := ⟨_, _, _, rfl⟩

theorem sameButForChips_next {t u : State} (h : AgreeButForChips t u) : SameButForChips (.next t) (.next u) :=
  fun _ ht => ⟨u, rfl, Host.Outcome.next.inj ht ▸ h⟩

/-- Two ends of an operation on one value are the same if their effects are: a fault writes FLT alone. -/
theorem sameButForChips_finish {α : Type} (value : Except FaultCause α) {effect effect' : α → State} (s : State)
    (h : ∀ v, AgreeButForChips (effect v) (effect' v)) :
    SameButForChips (finish value effect s) (finish value effect' (withoutLink s)) := by
  cases value with
  | ok v => exact sameButForChips_next (h v)
  | error cause => exact sameButForChips_next (agreeButForChips_withoutLink { s with flt := faultCode cause })

/-- A frame leaves the same pins and TRACE without the link. -/
theorem serialize_without_link (a b : Byte) (s : State) :
    AgreeButForChips (serialize a b s) (serialize a b (withoutLink s)) := by
  rw [serialize_eq, serialize_eq]
  exact ⟨_, _, _, rfl⟩

/-- A sample does not see the link. -/
theorem sample_without_link {α : Type} (offered : Option α) (free : Nat → α) (s : State) :
    sample offered free (withoutLink s) = ((sample offered free s).1, withoutLink (sample offered free s).2) := by
  cases offered <;> rfl

theorem holdVoltage_without_link (s : State) : holdVoltage (withoutLink s) = withoutLink (holdVoltage s) := by
  have hpot : samplePot (withoutLink s) = ((samplePot s).1, withoutLink (samplePot s).2) := by
    simp only [samplePot]
    rw [show (withoutLink s).inputs = s.inputs from rfl, sample_without_link]
  unfold holdVoltage
  rw [hpot]
  cases h : samplesPot s.policy s.ad <;> simp [h, withoutLink]

theorem stepP1_without_link (s : State) : SameButForChips (stepP1 s) (stepP1 (withoutLink s)) := by
  have hsample : sampleResetN (withoutLink s) = ((sampleResetN s).1, withoutLink (sampleResetN s).2) :=
    sample_without_link s.inputs.resetN Config.freeResetN s
  rw [stepP1_eq, stepP1_eq, hsample]
  exact sameButForChips_next (agreeButForChips_withoutLink _)

theorem stepP2_without_link (s : State) : SameButForChips (stepP2 s) (stepP2 (withoutLink s)) := by
  have hsample : sampleModeN (withoutLink s) = ((sampleModeN s).1, withoutLink (sampleModeN s).2) :=
    sample_without_link s.inputs.modeN Config.freeModeN s
  rw [stepP2_eq, stepP2_eq, hsample]
  exact sameButForChips_next (agreeButForChips_withoutLink _)

theorem agreeButForChips_advance {t u : State} (ad : Position) (ph : Phase) (h : AgreeButForChips t u) :
    AgreeButForChips { t with ad := ad, ph := ph } { u with ad := ad, ph := ph } := by
  obtain ⟨chain, out, draws, rfl⟩ := h
  exact ⟨chain, out, draws, rfl⟩

/-- A refresh samples and renders the same, and its frame is the same on the pins. -/
theorem stepP3_without_link (s : State) : SameButForChips (stepP3 s) (stepP3 (withoutLink s)) := by
  cases hpr : s.pr with
  | false =>
    rw [stepP3_idle hpr, stepP3_idle (s := withoutLink s) hpr]
    exact sameButForChips_next (agreeButForChips_withoutLink { s with ph := .p1 })
  | true =>
    have hheld : holdVoltage (clearPending (withoutLink s)) = withoutLink (holdVoltage (clearPending s)) :=
      holdVoltage_without_link (clearPending s)
    have hpr' : (withoutLink s).pr = true := hpr
    unfold stepP3
    rw [if_pos hpr, if_pos hpr', hheld]
    generalize holdVoltage (clearPending s) = r
    exact sameButForChips_finish (renderDigit r.mode r.ad r.es r.vh) s fun seg =>
      agreeButForChips_advance (nextPosition r.ad) .p1 (serialize_without_link seg (selROM r.ad) r)

theorem exec_step_without_link {s : State} (hf : s.flt = 0) :
    SameButForChips (exec .step s) (exec .step (withoutLink s)) := by
  show SameButForChips (execStep s) (execStep (withoutLink s))
  rcases phase_cases s.ph with hp | hp | hp
  · rw [execStep_p1 hf hp, execStep_p1 (s := withoutLink s) hf hp]
    exact stepP1_without_link s
  · rw [execStep_p2 hf hp, execStep_p2 (s := withoutLink s) hf hp]
    exact stepP2_without_link s
  · rw [execStep_p3 hf hp, execStep_p3 (s := withoutLink s) hf hp]
    exact stepP3_without_link s

/-- A pure query reads no state, so it does not see the link either. -/
theorem exec_query_without_link {i : Instr} {s : State} (hf : s.flt = 0)
    (hi : (∃ d, i = .segenc d) ∨ (∃ p, i = .selenc p) ∨ (∃ e, i = .splitt e) ∨ (∃ c, i = .splitv c) ∨
      (∃ p e, i = .rendt p e) ∨ (∃ p c, i = .rendv p c)) :
    SameButForChips (exec i s) (exec i (withoutLink s)) := by
  obtain ⟨value, hvalue⟩ := exec_query_eq_finish hi
  rw [hvalue s hf, hvalue (withoutLink s) hf]
  exact sameButForChips_finish value s fun r => agreeButForChips_withoutLink { s with res := r }

theorem exec_tread_of_running {s : State} (hf : s.flt = 0) : exec .tread s = .next (setResult s.es s) := by
  simp only [exec, execTread, whenRunning_of_running hf]

/-- An operation on a running core answers the same without the link, but for the chips and the draw counter. -/
theorem exec_without_link_of_running (i : Instr) {s : State} (hf : s.flt = 0) :
    SameButForChips (exec i s) (exec i (withoutLink s)) := by
  have hf' : (withoutLink s).flt = 0 := hf
  cases i with
  | segenc | selenc | splitt | splitv | rendt | rendv => exact exec_query_without_link hf (by simp)
  | write a b =>
    rw [exec_write_of_running hf, exec_write_of_running hf']
    exact sameButForChips_next (serialize_without_link a b s)
  | tick =>
    rw [exec_tick_of_running hf, exec_tick_of_running hf']
    exact sameButForChips_next (agreeButForChips_withoutLink { s with es := nextSecond s.es })
  | treset =>
    rw [exec_treset_of_running hf, exec_treset_of_running hf']
    exact sameButForChips_next (agreeButForChips_withoutLink (resetElapsed s))
  | tread =>
    rw [exec_tread_of_running hf, exec_tread_of_running hf']
    exact sameButForChips_next (agreeButForChips_withoutLink (setResult s.es s))
  | rtick =>
    rw [exec_rtick_of_running hf, exec_rtick_of_running hf']
    exact sameButForChips_next (agreeButForChips_withoutLink (setPending s))
  | step => exact exec_step_without_link hf

theorem exec_without_link (i : Instr) (s : State) : SameButForChips (exec i s) (exec i (withoutLink s)) := by
  by_cases hf : s.flt = 0
  · exact exec_without_link_of_running i hf
  · rw [exec_of_halted i hf, exec_of_halted i (s := withoutLink s) hf]
    exact sameButForChips_next (agreeButForChips_withoutLink s)

/-- Settles O24: only pin writes read the link, and what they do to the pins and TRACE does not depend on it. -/
theorem coreBehavesTheSameWithoutTheLink : Obligations.CoreBehavesTheSameWithoutTheLink := by
  intro i s t _ h
  obtain ⟨_, hexec, chain, out, draws, rfl⟩ := exec_without_link i s t h
  exact ⟨chain, out, draws, hexec⟩

end Sys2Proof.Proofs

/-! SUPPORT. Proofs of the statements on the elapsed-seconds counter (spec/42_timer.md): TICK and its runs, TRESET,
TREAD, and the invariants at reset, where the counter starts in range. -/

namespace Sys2Proof.Proofs

open Sys2Proof.Machine Sys2Proof.Safety

/-! ## TICK -/

/-- TICK advances the counter alone, so a run of `n` TICKs advances it `n` times and changes nothing else. -/
theorem execAll_replicate_tick (n : Nat) {s : State} (hf : s.flt = 0) :
    execAll (List.replicate n { op := .tick, inputs := s.inputs }) s = .next { s with es := nextSecond^[n] s.es } := by
  induction n generalizing s with
  | zero => rfl
  | succ n ih =>
    calc execAll (List.replicate (n + 1) { op := .tick, inputs := s.inputs }) s
        = execAll (List.replicate n { op := .tick, inputs := s.inputs }) { s with es := nextSecond s.es } :=
          execAll_cons_of_next (exec_tick_of_running hf)
      _ = .next { s with es := nextSecond^[n + 1] s.es } := ih (s := { s with es := nextSecond s.es }) hf

/-- The counter in range, `n` seconds later, goes round by the modulus (R180). -/
theorem toNat_iterate_nextSecond (n : Nat) {es : Elapsed} (h : es.toNat < 6000) :
    (nextSecond^[n] es).toNat = (es.toNat + n) % 6000 := by
  induction n with
  | zero => exact (Nat.mod_eq_of_lt h).symm
  | succ n ih =>
    have hlt : (nextSecond^[n] es).toNat < 6000 := ih ▸ Nat.mod_lt _ (by decide)
    rw [Function.iterate_succ_apply', toNat_nextSecond hlt, ih, Nat.mod_add_mod, Nat.add_assoc]

/-- Settles O29: a run of TICKs changes only the counter, and 6000 seconds more are once round its range. -/
theorem sixThousandTicksReturnToTheStart : Obligations.SixThousandTicksReturnToTheStart := by
  intro s hf hes
  have hround : nextSecond^[6000] s.es = s.es := by
    apply BitVec.eq_of_toNat_eq
    rw [toNat_iterate_nextSecond 6000 hes, Nat.add_mod_right, Nat.mod_eq_of_lt hes]
  rw [execAll_replicate_tick 6000 hf, hround]

/-- Settles O28: the next second is 0 after 5999 and one more before it. -/
theorem tickCountsSecondsModuloSixThousand : Obligations.TickCountsSecondsModuloSixThousand := by
  refine ⟨decode_encode .tick, fun s hf => ⟨fun hlast => ?wraps, fun hlt => ⟨nextSecond s.es, ?counts, ?result⟩⟩⟩
  case wraps => rw [exec_tick_of_running hf, nextSecond_standard, if_pos hlast]
  case counts => rw [toNat_nextSecond (by omega), Nat.mod_eq_of_lt (by omega)]
  case result => exact exec_tick_of_running hf

/-! ## TRESET and TREAD -/

/-- Settles O30: TRESET is resetElapsed, whatever the counter was, and a TICK after it counts from 0. -/
theorem tresetClearsTheCounterAlone : Obligations.TresetClearsTheCounterAlone :=
  ⟨decode_encode .treset, fun _ hf =>
    ⟨exec_treset_of_running hf, execAll_pair_of_next (exec_treset_of_running hf) (exec_tick_of_running hf)⟩⟩

/-- Settles O31: the zero-extended counter has the counter's value, and setResult writes it to RES alone. -/
theorem treadCopiesTheCounterToTheResult : Obligations.TreadCopiesTheCounterToTheResult := by
  refine ⟨decode_encode .tread, fun s hf => ⟨s.es.setWidth 32, ?value, fun hes => ?range, exec_tread_of_running hf⟩⟩
  case value => exact BitVec.toNat_setWidth_of_le (by decide)
  case range => rwa [BitVec.toNat_setWidth_of_le (by decide)]

/-! ## The invariants at reset -/

/-- A core just powered on has written no frame and stands at position 0 (R50, R231). -/
theorem roundRobin_powerOn (chain out : Frame) (s : State) : RoundRobin (powerOn chain out s) where
  elapsed := (by decide : (0 : Elapsed).toNat < 6000)
  running := rfl
  frames := ⟨[], rfl, rfl, fun _ h => absurd h (Nat.not_lt_zero _)⟩

/-- State.reset is what a power-on event leaves, the chips coming up with their free contents (R50, R320). -/
theorem powerOn_reset : powerOn Config.powerUpChain Config.powerUpOut State.reset = State.reset := rfl

/-- Settles O53: both invariants hold after any power-on event, and State.reset is the state after one. -/
theorem invariantsHoldAtReset : Obligations.InvariantsHoldAtReset :=
  ⟨powerOn_reset ▸ coreInv_powerOn _ _ _, powerOn_reset ▸ roundRobin_powerOn _ _ _⟩

end Sys2Proof.Proofs

/-! SUPPORT. Proofs of the statements on the digit extractor and the renderer (spec/43_renderer.md): the fields SPLITT
and SPLITV write, the digits RENDT, RENDV and RenderDigit give, the centivolts, and what a full cycle of refreshes shows
on the display. -/

namespace Sys2Proof.Proofs

open Sys2Proof.Machine Sys2Proof.Safety

/-! ## The fields of a result word -/

/-- Fields that stand side by side are a number in the mixed radix of their widths. -/
theorem toNat_append_eq_add {m n : Nat} (x : BitVec m) (y : BitVec n) :
    (x ++ y).toNat = x.toNat * 2 ^ n + y.toNat := by
  rw [BitVec.toNat_append, ← Nat.shiftLeft_add_eq_or_of_lt y.isLt, Nat.shiftLeft_eq]

theorem toNat_extractLsb'_eq_mod (r : OpWord) (start len : Nat) :
    (r.extractLsb' start len).toNat = r.toNat / 2 ^ start % 2 ^ len := by
  rw [BitVec.extractLsb'_toNat, Nat.shiftRight_eq_div_pow]

/-- The fields of SPLITT's layout, read back from the word (R200). -/
theorem fields_of_timer_layout {r : OpWord} {s : BitVec 6} {m : BitVec 7} {d3 d2 d1 d0 : Digit}
    (hr : r = (s ++ 0#1 ++ m ++ d3 ++ d2 ++ d1 ++ d0).setWidth 32) :
    (r.extractLsb' 30 2).toNat = 0 ∧ (r.extractLsb' 24 6).toNat = s.toNat ∧
      (r.extractLsb' 23 1).toNat = 0 ∧ (r.extractLsb' 16 7).toNat = m.toNat ∧
      (r.extractLsb' 12 4).toNat = d3.toNat ∧ (r.extractLsb' 8 4).toNat = d2.toNat ∧
      (r.extractLsb' 4 4).toNat = d1.toNat ∧ (r.extractLsb' 0 4).toNat = d0.toNat := by
  subst hr
  simp only [toNat_extractLsb'_eq_mod, BitVec.toNat_setWidth, toNat_append_eq_add, BitVec.toNat_ofNat, Nat.reducePow]
  omega

/-- The fields of SPLITV's layout, read back from the word (R203). -/
theorem fields_of_volts_layout {r : OpWord} {v : BitVec 9} {d2 d1 d0 : Digit}
    (hr : r = (v ++ 0#4 ++ d2 ++ d1 ++ d0).setWidth 32) :
    (r.extractLsb' 25 7).toNat = 0 ∧ (r.extractLsb' 16 9).toNat = v.toNat ∧ (r.extractLsb' 12 4).toNat = 0 ∧
      (r.extractLsb' 8 4).toNat = d2.toNat ∧ (r.extractLsb' 4 4).toNat = d1.toNat ∧
      (r.extractLsb' 0 4).toNat = d0.toNat := by
  subst hr
  simp only [toNat_extractLsb'_eq_mod, BitVec.toNat_setWidth, toNat_append_eq_add, BitVec.toNat_ofNat, Nat.reducePow]
  omega

/-! ## SPLITT and SPLITV -/

theorem exec_splitt_of_lt {s : State} {e : Elapsed} (hf : s.flt = 0) (h : e.toNat < 6000) :
    exec (.splitt e) s = .next { s with res := (splitTimer e.toNat).setWidth 32 } := by
  rw [← execFor_standard, execFor_splitt hf, elapsedInRange_of_lt h]
  rfl

theorem exec_splitt_of_ge {s : State} {e : Elapsed} (hf : s.flt = 0) (h : 6000 ≤ e.toNat) :
    exec (.splitt e) s = .next { s with flt := 3 } := by
  rw [← execFor_standard, execFor_splitt hf, elapsedInRange_of_ge h]
  rfl

theorem exec_splitv_of_running {s : State} (hf : s.flt = 0) (c : Code) :
    exec (.splitv c) s = .next { s with res := (splitVolts (centivolts c)).setWidth 32 } :=
  execFor_splitv hf standard c

/-- Settles O16: below 6000 each number fits its field of the layout, so the field holds it whole. -/
theorem splittWritesMinutesSecondsAndDigits : Obligations.SplittWritesMinutesSecondsAndDigits := by
  refine fun e s hf => ⟨fun hlt => ⟨_, exec_splitt_of_lt hf hlt, ?fields⟩, exec_splitt_of_ge hf⟩
  have hfields := fields_of_timer_layout (r := (splitTimer e.toNat).setWidth 32) rfl
  simpa (disch := omega) only [BitVec.toNat_ofNat, Nat.mod_eq_of_lt] using hfields

/-- Settles O19: the centivolts are at most 330, so each number fits its field of the layout. -/
theorem splitvWritesCentivoltsAndDigits : Obligations.SplitvWritesCentivoltsAndDigits := by
  rintro c s v hf (rfl : v = centivolts c)
  refine ⟨_, exec_splitv_of_running hf c, ?fields⟩
  have hle : centivolts c ≤ 330 := centivolts_le c
  have hfields := fields_of_volts_layout (r := (splitVolts (centivolts c)).setWidth 32) rfl
  simpa (disch := omega) only [BitVec.toNat_ofNat, Nat.mod_eq_of_lt] using hfields

/-! ## The centivolts -/

theorem centivolts_eq (c : Code) : centivolts c = c.toNat * 330 / 65535 := rfl

theorem centivolts_mono {c c' : Code} (h : c.toNat ≤ c'.toNat) : centivolts c ≤ centivolts c' :=
  Nat.div_le_div_right (Nat.mul_le_mul_right 330 h)

/-- The least code of a voltage: as a step of the code is less than a centivolt, none is passed over (R202). -/
theorem exists_centivolts_eq {v : Nat} (h : v ≤ 330) : ∃ c : Code, centivolts c = v := by
  refine ⟨BitVec.ofNat 16 ((v * 65535 + 329) / 330), ?_⟩
  rw [centivolts_eq, BitVec.toNat_ofNat, Nat.mod_eq_of_lt (by omega)]
  omega

/-- Settles O18: the conversion is monotone from 0 to 330, and the least code of each value is written out. -/
theorem centivoltConversionLaws : Obligations.CentivoltConversionLaws :=
  ⟨fun c => ⟨centivolts_eq c, centivolts_le c⟩, rfl, rfl, fun _ _ => centivolts_mono, fun _ => exists_centivolts_eq⟩

/-! ## RENDT and RENDV -/

/-- The number of a word with a position in bits 25:24 and an operand at its low end (R106). -/
theorem toNat_append_position {k n : Nat} (op : BitVec 6) (p : Position) (v : BitVec n) (h : k + n = 24) :
    (op ++ p ++ 0#k ++ v).toNat = op.toNat <<< 26 ||| p.toNat <<< 24 ||| v.toNat := by
  simp only [BitVec.toNat_append, BitVec.toNat_ofNat, Nat.zero_mod, Nat.or_zero, Nat.shiftLeft_or_distrib,
    ← Nat.shiftLeft_add, Nat.add_assoc, h]

/-- The number of the same word as the statements write it. -/
theorem toNat_or_position {n : Nat} (op : OpWord) (p : Position) (v : BitVec n) (h : n ≤ 32) :
    (op ||| p.setWidth 32 <<< 24 ||| v.setWidth 32).toNat = op.toNat ||| p.toNat <<< 24 ||| v.toNat := by
  have hp := p.isLt
  have hshift : p.toNat <<< 24 < 2 ^ 32 := by omega
  rw [BitVec.toNat_or, BitVec.toNat_or, BitVec.toNat_shiftLeft, BitVec.toNat_setWidth_of_le (by decide),
    BitVec.toNat_setWidth_of_le h, Nat.mod_eq_of_lt hshift]

theorem encode_rendt (p : Position) (e : Elapsed) :
    encode (.rendt p e) = 0x50000000#32 ||| p.setWidth 32 <<< 24 ||| e.setWidth 32 :=
  BitVec.eq_of_toNat_eq <|
    (toNat_append_position (k := 11) (0x5#4 ++ 0#2) p e rfl).trans (toNat_or_position 0x50000000 p e (by decide)).symm

theorem encode_rendv (p : Position) (c : Code) :
    encode (.rendv p c) = 0x60000000#32 ||| p.setWidth 32 <<< 24 ||| c.setWidth 32 :=
  BitVec.eq_of_toNat_eq <|
    (toNat_append_position (k := 8) (0x6#4 ++ 0#2) p c rfl).trans (toNat_or_position 0x60000000 p c (by decide)).symm

theorem exec_rendt_of_ok {s : State} {p : Position} {e : Elapsed} {b : Byte} (hf : s.flt = 0)
    (hb : timerDigit p e = .ok b) : exec (.rendt p e) s = .next { s with res := b.setWidth 32 } := by
  rw [← execFor_standard, execFor_rendt hf, hb]
  rfl

theorem exec_rendt_of_ge {s : State} (p : Position) {e : Elapsed} (hf : s.flt = 0) (h : 6000 ≤ e.toNat) :
    exec (.rendt p e) s = .next { s with flt := 3 } := by
  rw [← execFor_standard, execFor_rendt hf, timerDigit_of_ge p h]
  rfl

theorem exec_rendv_of_ok {s : State} {p : Position} {c : Code} {b : Byte} (hf : s.flt = 0)
    (hb : voltDigit p c = .ok b) : exec (.rendv p c) s = .next { s with res := b.setWidth 32 } := by
  rw [← execFor_standard, execFor_rendv hf, hb]
  rfl

/-- Settles O17: the word is the encoder's, and the operation ends as the digit of its position does. -/
theorem rendtWritesTheTimerDigit : Obligations.RendtWritesTheTimerDigit := by
  refine fun p e => ⟨?word, fun s hf => ⟨fun hlt => ?digit, exec_rendt_of_ge p hf⟩⟩
  case word => rw [← encode_rendt, decode_encode]
  case digit => exact ⟨_, rfl, exec_rendt_of_ok hf (timerDigit_of_lt p hlt)⟩

/-- Settles O20: the word is the encoder's, and every code has a digit at every position. -/
theorem rendvWritesTheVoltmeterDigit : Obligations.RendvWritesTheVoltmeterDigit := by
  refine fun p c => ⟨?word, ?digit⟩
  case word => rw [← encode_rendv, decode_encode]
  case digit =>
    rintro s _ hf rfl
    exact ⟨_, rfl, exec_rendv_of_ok hf (voltDigit_eq p c)⟩

/-- Settles O21: each mode's digit is defined, and the renderer is that digit, a function of one argument. -/
theorem renderDigitIsDefinedAndReadsOnlyItsMode : Obligations.RenderDigitIsDefinedAndReadsOnlyItsMode :=
  fun p _ _ c _ => ⟨renderDigit_ok .timer p c, ⟨_, voltDigit_eq p c⟩, rfl, rfl⟩

/-! ## One refresh of a deployed core -/

/-- A running core with ES in range, at the start of a pass of the sequencer. -/
structure AtPassStart (s : State) : Prop where
  running : s.flt = 0
  elapsed : s.es.toNat < 6000
  phase : s.ph = .p1

/-- An RTICK and a pass of the sequencer from P1, with what the ports show at each of its three steps. -/
def refreshPass (atP1 atP2 atP3 : Inputs) : List Issue :=
  [{ op := .rtick }, { op := .step, inputs := atP1 }, { op := .step, inputs := atP2 }, { op := .step, inputs := atP3 }]

/-- What a refreshing pass makes of a state, as far as the display shows it: each input is read at its own step, and the
frame sent is the active position's digit (R251 to R253). -/
structure RefreshedBy (atP1 atP2 atP3 : Inputs) (s t : State) : Prop where
  atPassStart : AtPassStart t
  pending : t.pr = false
  policy : t.policy = s.policy
  position : t.ad = s.ad + 1
  es_of_released : atP1.resetN = some true → t.es = s.es
  mode_of_offered : ∀ level, atP2.modeN = some level → t.mode = modeOf (pressed level)
  vh_of_held : samplesPot s.policy s.ad = false → t.vh = s.vh
  vh_of_offered : samplesPot s.policy s.ad = true → ∀ code, atP3.pot = some code → t.vh = code
  sends : ∃ seg, renderDigit t.mode s.ad t.es t.vh = .ok seg ∧
    t.trace = s.trace ++ frameEvents (frameOf seg (selROM s.ad))

/-- Phase P1 writes ES, which stays in range, and keeps its value with the reset button released (R251). -/
theorem exec_step_p1_writes {s : State} (hs : AtPassStart s) :
    ∃ e d, exec .step s = .next { s with es := e, ph := .p2, draws := d } ∧ e.toNat < 6000 ∧
      (s.inputs.resetN = some true → e = s.es) := by
  have hexec : exec .step s = stepP1 s := execStep_p1 hs.running hs.phase
  rw [stepP1_eq, sampleResetN_snd] at hexec
  refine ⟨_, _, hexec, ?range, fun hreleased => ?kept⟩
  case range =>
    split
    · decide
    · exact hs.elapsed
  case kept => simp [sampleResetN, hreleased, pressed]

/-- Phase P2 writes MODE, which an offered level of the mode button decides (R252). -/
theorem exec_step_p2_writes {s : State} (hf : s.flt = 0) (hp : s.ph = .p2) :
    ∃ m d, exec .step s = .next { s with mode := m, ph := .p3, draws := d } ∧
      ∀ level, s.inputs.modeN = some level → m = modeOf (pressed level) := by
  have hexec : exec .step s = stepP2 s := execStep_p2 hf hp
  rw [stepP2_eq, sampleModeN_snd] at hexec
  refine ⟨_, _, hexec, fun level hoffered => ?_⟩
  rw [sampleModeN, hoffered, sample_some]

/-- Phase P3 with a refresh pending samples POT by the policy, sends the active position's digit and advances (R253). -/
theorem exec_step_p3_writes {s : State} (hf : s.flt = 0) (hes : s.es.toNat < 6000) (hp : s.ph = .p3)
    (hpr : s.pr = true) :
    ∃ v d seg, ∃ w : Wires, exec .step s = .next { s with
        pr := false, vh := v, draws := d, data := w.data, clock := w.clock, latch := w.latch, chain := w.chain,
        out := w.out, trace := s.trace ++ frameEvents (frameOf seg (selROM s.ad)), ad := s.ad + 1, ph := .p1 } ∧
      renderDigit s.mode s.ad s.es v = .ok seg ∧ (samplesPot s.policy s.ad = false → v = s.vh) ∧
      (samplesPot s.policy s.ad = true → ∀ code, s.inputs.pot = some code → v = code) := by
  obtain ⟨seg, hseg⟩ := renderDigit_ok s.mode s.ad (holdVoltage (clearPending s)).vh hes
  have hexec : exec .step s = stepP3 s := execStep_p3 hf hp
  refine ⟨_, _, seg, ⟨_, _, _, _, _⟩, hexec.trans (stepP3_refresh hpr hseg), hseg, fun hheld => ?held,
    fun hsampled code hoffered => ?offered⟩
  case held => rw [holdVoltage_of_held (s := clearPending s) hheld, clearPending_vh]
  case offered => rw [holdVoltage_of_offered (s := clearPending s) hsampled hoffered]

/-- A pass with a refresh pending completes, each of its steps writing what its phase writes. -/
theorem execAll_refreshPass (atP1 atP2 atP3 : Inputs) {s : State} (hs : AtPassStart s) :
    ∃ t, execAll (refreshPass atP1 atP2 atP3) s = .next t ∧ RefreshedBy atP1 atP2 atP3 s t := by
  obtain ⟨e, d1, hp1, hrange, hkept⟩ :=
    exec_step_p1_writes (s := { s with pr := true, inputs := atP1 }) ⟨hs.running, hs.elapsed, hs.phase⟩
  obtain ⟨m, d2, hp2, hmode⟩ := exec_step_p2_writes
    (s := { s with pr := true, es := e, ph := .p2, draws := d1, inputs := atP2 }) hs.running rfl
  obtain ⟨v, d3, seg, w, hp3, hseg, hheld, hoffered⟩ := exec_step_p3_writes
    (s := { s with pr := true, es := e, mode := m, ph := .p3, draws := d2, inputs := atP3 }) hs.running hrange rfl rfl
  have hrun : execAll (refreshPass atP1 atP2 atP3) s = .next _ :=
    calc execAll (refreshPass atP1 atP2 atP3) s
        = execAll [_, _, _] _ := execAll_cons_of_next (exec_rtick_of_running hs.running)
      _ = execAll [_, _] _ := execAll_cons_of_next hp1
      _ = .next _ := execAll_pair_of_next hp2 hp3
  exact ⟨_, hrun, ⟨hs.running, hrange, rfl⟩, rfl, rfl, rfl, hkept, hmode, hheld, hoffered, seg, hseg, rfl⟩

/-! ## What a cycle of four refreshes shows -/

/-- Operations that complete, send the active position's byte of a picture, and advance. -/
structure SendsByteOf (picture : Position → Byte) (issues : List Issue) (s t : State) : Prop where
  completes : execAll issues s = .next t
  position : t.ad = s.ad + 1
  trace : t.trace = s.trace ++ frameEvents (frameOf (picture s.ad) (selROM s.ad))

theorem SendsByteOf.position_eq {picture : Position → Byte} {issues : List Issue} {s t : State} {p : Position}
    (h : SendsByteOf picture issues s t) (had : s.ad = p) : t.ad = p + 1 := had ▸ h.position

/-- A refreshing pass sends its byte of what the renderer makes of the values the pass leaves. -/
theorem RefreshedBy.sendsByteOf {atP1 atP2 atP3 : Inputs} {s t : State} {picture : Position → Byte}
    (h : RefreshedBy atP1 atP2 atP3 s t) (hrun : execAll (refreshPass atP1 atP2 atP3) s = .next t)
    (hpicture : ∀ p, renderDigit t.mode p t.es t.vh = .ok (picture p)) :
    SendsByteOf picture (refreshPass atP1 atP2 atP3) s t := by
  obtain ⟨seg, hseg, htrace⟩ := h.sends
  obtain rfl : seg = picture s.ad := Except.ok.inj (hseg.symm.trans (hpicture s.ad))
  exact ⟨hrun, h.position, htrace⟩

theorem execAll_append_of_next {is js : List Issue} {s t : State} (h : execAll is s = .next t) :
    execAll (is ++ js) s = execAll js t := by
  induction is generalizing s with
  | nil => rw [List.nil_append, Host.Outcome.next.inj h]
  | cons i is ih =>
    cases hi : exec i.op (showInputs i.inputs s) with
    | next u =>
      rw [execAll_cons_of_next hi] at h
      rw [List.cons_append, execAll_cons_of_next hi, ih h]
    | fault | refused => simp [execAll, hi] at h

/-- The frames of a picture, in the order of the positions. -/
def pictureFrames (picture : Position → Byte) : List Frame :=
  ([0, 1, 2, 3] : List Position).map (fun p => frameOf (picture p) (selROM p))

/-- Each frame of a list is committed once, in order, whatever the wires held before (R163, R300). -/
theorem committed_flatMap_frameEvents (fs : List Frame) (w : Wires) : committed (fs.flatMap frameEvents) w = fs := by
  induction fs generalizing w with
  | nil => rfl
  | cons f fs ih => rw [List.flatMap_cons, committed_append, committed_frameEvents, ih, List.singleton_append]

theorem position_cases (p : Position) : p = 0 ∨ p = 1 ∨ p = 2 ∨ p = 3 := by
  revert p; decide

/-- The frames of a picture show it, as no two positions have one select byte (R302). -/
theorem shownAt_pictureFrames (picture : Position → Byte) (p : Position) :
    shownAt (pictureFrames picture) p = some (picture p) := by
  rcases position_cases p with rfl | rfl | rfl | rfl <;> simp [shownAt, pictureFrames, selROM, selTable]

/-- Four refreshes from position 0, each sending its byte of one picture, show the whole picture. -/
theorem cycle_shows_picture {picture : Position → Byte} {is1 is2 is3 is4 : List Issue} {s t1 t2 t3 t4 : State}
    (had : s.ad = 0) (h1 : SendsByteOf picture is1 s t1) (h2 : SendsByteOf picture is2 t1 t2)
    (h3 : SendsByteOf picture is3 t2 t3) (h4 : SendsByteOf picture is4 t3 t4) :
    execAll (is1 ++ (is2 ++ (is3 ++ is4))) s = .next t4 ∧ t4.ad = 0 ∧
      ∃ sent, t4.trace = s.trace ++ sent ∧ ∀ w p, shownAt (committed sent w) p = some (picture p) := by
  have had1 : t1.ad = 1 := h1.position_eq had
  have had2 : t2.ad = 2 := h2.position_eq had1
  have had3 : t3.ad = 3 := h3.position_eq had2
  have had4 : t4.ad = 0 := h4.position_eq had3
  refine ⟨?completes, had4, (pictureFrames picture).flatMap frameEvents, ?trace, fun w p => ?shown⟩
  case completes =>
    rw [execAll_append_of_next h1.completes, execAll_append_of_next h2.completes, execAll_append_of_next h3.completes,
      h4.completes]
  case trace =>
    rw [h4.trace, h3.trace, h2.trace, h1.trace, had, had1, had2, had3]
    simp [pictureFrames]
  case shown => rw [committed_flatMap_frameEvents, shownAt_pictureFrames]

/-- What the display shows of elapsed seconds: MM.SS (R201). -/
def timerPicture (e : Elapsed) (p : Position) : Byte :=
  if p = 0 then segTable.getD (e.toNat / 60 / 10) 0
  else if p = 1 then segTable.getD (e.toNat / 60 % 10) 0 &&& 0x7F
  else if p = 2 then segTable.getD (e.toNat % 60 / 10) 0
  else segTable.getD (e.toNat % 60 % 10) 0

theorem renderDigit_timer (p : Position) {e : Elapsed} (c : Code) (h : e.toNat < 6000) :
    renderDigit .timer p e c = .ok (timerPicture e p) := timerDigit_of_lt p h

/-- What the display shows of a code: its volts with two decimals, and a blank (R204). -/
def voltPicture (c : Code) (p : Position) : Byte :=
  if p = 0 then segTable.getD (centivolts c / 100) 0 &&& 0x7F
  else if p = 1 then segTable.getD (centivolts c % 100 / 10) 0
  else if p = 2 then segTable.getD (centivolts c % 100 % 10) 0
  else 0xFF

theorem renderDigit_voltmeter (p : Position) (e : Elapsed) (c : Code) :
    renderDigit .voltmeter p e c = .ok (voltPicture c p) := voltDigit_eq p c

/-- A pass with the buttons released sends its byte of the elapsed time, and leaves the time as it was. -/
theorem released_pass_shows_time {released : Inputs} {s : State} {e : Elapsed} (hs : AtPassStart s) (he : s.es = e)
    (hreset : released.resetN = some true) (hmode : released.modeN = some true) :
    ∃ t, SendsByteOf (timerPicture e) (refreshPass released released released) s t ∧ AtPassStart t ∧ t.es = e ∧
      t.mode = .timer := by
  obtain ⟨t, hrun, ht⟩ := execAll_refreshPass released released released hs
  have hes : t.es = e := (ht.es_of_released hreset).trans he
  have htimer : t.mode = .timer := ht.mode_of_offered true hmode
  refine ⟨t, ht.sendsByteOf hrun fun p => ?_, ht.atPassStart, hes, htimer⟩
  rw [htimer, hes]
  exact renderDigit_timer p t.vh (hes ▸ ht.atPassStart.elapsed)

/-- A pass with the mode button held, which samples the code at position 0 and at any other holds it already, sends its
byte of the voltage, whatever POT shows (R253, R256). -/
theorem held_pass_shows_voltage {held : Inputs} {s : State} {code : Code} (hs : AtPassStart s)
    (hpolicy : s.policy = .perCycle) (hmode : held.modeN = some false)
    (hcode : s.ad = 0 ∧ held.pot = some code ∨ s.ad ≠ 0 ∧ s.vh = code) :
    ∃ t, SendsByteOf (voltPicture code) (refreshPass held held held) s t ∧ AtPassStart t ∧ t.policy = .perCycle ∧
      t.vh = code ∧ t.mode = .voltmeter := by
  obtain ⟨t, hrun, ht⟩ := execAll_refreshPass held held held hs
  have hsamples : samplesPot s.policy s.ad = decide (s.ad = 0) := by simp [samplesPot, hpolicy]
  have hvh : t.vh = code := by
    rcases hcode with ⟨had, hpot⟩ | ⟨had, hkept⟩
    · exact ht.vh_of_offered (hsamples.trans (decide_eq_true had)) code hpot
    · exact (ht.vh_of_held (hsamples.trans (decide_eq_false had))).trans hkept
  have hvolts : t.mode = .voltmeter := ht.mode_of_offered false hmode
  refine ⟨t, ht.sendsByteOf hrun fun p => ?_, ht.atPassStart, ht.policy.trans hpolicy, hvh, hvolts⟩
  rw [hvolts, hvh, renderDigit_voltmeter]

/-- Settles O45: each of the four passes sends its byte of one picture, that of the elapsed time. -/
theorem fullCycleShowsTheElapsedTime : Obligations.FullCycleShowsTheElapsedTime := by
  intro s released hf hes hp had hreset hmode
  obtain ⟨t1, h1, hs1, he1, -⟩ := released_pass_shows_time ⟨hf, hes, hp⟩ rfl hreset hmode
  obtain ⟨t2, h2, hs2, he2, -⟩ := released_pass_shows_time hs1 he1 hreset hmode
  obtain ⟨t3, h3, hs3, he3, -⟩ := released_pass_shows_time hs2 he2 hreset hmode
  obtain ⟨t4, h4, -, he4, hmode4⟩ := released_pass_shows_time hs3 he3 hreset hmode
  obtain ⟨hrun, had4, sent, htrace, hshown⟩ := cycle_shows_picture had h1 h2 h3 h4
  exact ⟨t4, sent, hrun, htrace, he4, had4, hmode4, hshown _ 0, hshown _ 1, hshown _ 2, hshown _ 3⟩

/-- Settles O46: the pass at position 0 samples the code, the other three hold it, and each sends its byte of one
picture, that of the code. -/
theorem fullCycleShowsOneVoltageSample : Obligations.FullCycleShowsOneVoltageSample := by
  intro s first second third fourth code v hf hes hp had hpolicy hmode1 hpot hmode2 hmode3 hmode4
    (rfl : v = centivolts code)
  obtain ⟨t1, h1, hs1, hpolicy1, hvh1, -⟩ := held_pass_shows_voltage ⟨hf, hes, hp⟩ hpolicy hmode1 (.inl ⟨had, hpot⟩)
  have had1 : t1.ad = 1 := h1.position_eq had
  obtain ⟨t2, h2, hs2, hpolicy2, hvh2, -⟩ := held_pass_shows_voltage hs1 hpolicy1 hmode2 (.inr ⟨had1 ▸ by decide, hvh1⟩)
  have had2 : t2.ad = 2 := h2.position_eq had1
  obtain ⟨t3, h3, hs3, hpolicy3, hvh3, -⟩ := held_pass_shows_voltage hs2 hpolicy2 hmode3 (.inr ⟨had2 ▸ by decide, hvh2⟩)
  have had3 : t3.ad = 3 := h3.position_eq had2
  obtain ⟨t4, h4, -, -, hvh4, hvolts4⟩ := held_pass_shows_voltage hs3 hpolicy3 hmode4 (.inr ⟨had3 ▸ by decide, hvh3⟩)
  obtain ⟨hrun, had4, sent, htrace, hshown⟩ := cycle_shows_picture had h1 h2 h3 h4
  exact ⟨t4, sent, hrun, htrace, hvh4, had4, hvolts4, hshown _ 0, hshown _ 1, hshown _ 2, hshown _ 3⟩

end Sys2Proof.Proofs

/-! SUPPORT. Proofs of the statements on the multiplexer scheduler: RTICK, the four positions in turn, and the round
robin every step of a deployed core keeps (spec/44_scheduler.md). -/

namespace Sys2Proof.Proofs

open Sys2Proof.Machine Sys2Proof.Safety

/-! ## The step of a deployed core -/

/-- What a deployed system's next event can be: power-on reset, or the word of an operation that is not the harness's
(R10). -/
theorem deployedNext_cases {s : State} (h : DeployedNext s) :
    (∃ chain out, (takeEvent s).1 = .powerOn chain out) ∨
    ∃ w inputs i, (takeEvent s).1 = .word w inputs ∧ decode w = .ok i ∧ agentOf i ≠ .harness := by
  cases hev : (takeEvent s).1 with
  | powerOn chain out => exact .inl ⟨chain, out, rfl⟩
  | word w inputs =>
    simp only [DeployedNext, nextOp, hev] at h
    obtain ⟨i, hop, hi⟩ := h
    cases hd : decode w with
    | ok j =>
      obtain rfl : j = i := by simpa [hd] using hop
      exact .inr ⟨w, inputs, j, rfl, hd, hi⟩
    | error why => simp [hd] at hop

theorem takeEvent_keeps_roundRobin {s : State} (h : RoundRobin s) : RoundRobin (takeEvent s).2 := by
  rw [takeEvent_snd]
  exact roundRobin_of_same_trace h h.elapsed rfl rfl rfl

/-- Settles O55: a power-on starts the round robin anew, and a word of a deployed system runs an operation that keeps
it. -/
theorem deployedStepKeepsTheRoundRobin : Obligations.DeployedStepKeepsTheRoundRobin := by
  intro s t h hdeployed hstep
  have htaken : RoundRobin (takeEvent s).2 := takeEvent_keeps_roundRobin h
  rcases deployedNext_cases hdeployed with ⟨chain, out, hev⟩ | ⟨w, inputs, i, hev, hd, hi⟩
  · rw [step, hev] at hstep
    exact Host.Outcome.next.inj hstep ▸ roundRobin_powerOn chain out _
  · have hshown : RoundRobin (showInputs inputs (takeEvent s).2) :=
      roundRobin_of_same_trace htaken htaken.elapsed rfl rfl rfl
    obtain ⟨u, hexec, hu, -⟩ := exec_deployed_keeps_roundRobin hshown hi
    have hrun : step s = .next u := by
      rw [step, hev]
      exact (execWord_of_decode hd _).trans hexec
    exact Host.Outcome.next.inj (hrun.symm.trans hstep) ▸ hu

/-! ## Four refreshes -/

/-- Settles O44: each of the four passes completes with PR clear, sends one frame for the active position and advances,
and four advances come round to the position they started from. -/
theorem fourRefreshesVisitEveryPositionOnce : Obligations.FourRefreshesVisitEveryPositionOnce := by
  intro s i1 i2 i3 i4 i5 i6 i7 i8 i9 i10 i11 i12 hf hes hp
  obtain ⟨t1, hrun1, ht1⟩ := execAll_refreshPass i1 i2 i3 ⟨hf, hes, hp⟩
  obtain ⟨t2, hrun2, ht2⟩ := execAll_refreshPass i4 i5 i6 ht1.atPassStart
  obtain ⟨t3, hrun3, ht3⟩ := execAll_refreshPass i7 i8 i9 ht2.atPassStart
  obtain ⟨t4, hrun4, ht4⟩ := execAll_refreshPass i10 i11 i12 ht3.atPassStart
  obtain ⟨g0, -, hsent0⟩ := ht1.sends
  obtain ⟨g1, -, hsent1⟩ := ht2.sends
  obtain ⟨g2, -, hsent2⟩ := ht3.sends
  obtain ⟨g3, -, hsent3⟩ := ht4.sends
  have had1 : t1.ad = s.ad + 1 := ht1.position
  have had2 : t2.ad = s.ad + 2 := by rw [ht2.position, had1, BitVec.add_assoc]; rfl
  have had3 : t3.ad = s.ad + 3 := by rw [ht3.position, had2, BitVec.add_assoc]; rfl
  have had4 : t4.ad = s.ad := by rw [ht4.position, had3, BitVec.add_assoc]; exact BitVec.add_zero _
  have hrun : execAll (refreshPass i1 i2 i3 ++ (refreshPass i4 i5 i6 ++ (refreshPass i7 i8 i9 ++
      refreshPass i10 i11 i12))) s = .next t4 := by
    rw [execAll_append_of_next hrun1, execAll_append_of_next hrun2, execAll_append_of_next hrun3, hrun4]
  refine ⟨t4, g0, g1, g2, g3, hrun, had4, ht4.atPassStart.phase, ht4.pending, ht4.atPassStart.running, ?trace⟩
  rw [hsent3, hsent2, hsent1, hsent0, had1, had2, had3]
  rfl

/-! ## RTICK -/

/-- Settles O33: the word is the encoding of RTICK, and setPending writes PR alone. -/
theorem rtickSetsPending : Obligations.RtickSetsPending :=
  ⟨decode_encode .rtick, fun _ => exec_rtick_of_running⟩

end Sys2Proof.Proofs

/-! SUPPORT. Proofs of the statements on the control sequencer: what a STEP does in each phase, that none faults, and
where the held voltage changes (spec/45_control.md). -/

namespace Sys2Proof.Proofs

open Sys2Proof.Machine Sys2Proof.Safety

/-! ## The buttons -/

/-- A STEP at P1 that finds the reset button released writes PH alone (R251). -/
theorem exec_step_p1_of_released {s : State} (hf : s.flt = 0) (hp : s.ph = .p1)
    (hreleased : s.inputs.resetN = some true) : exec .step s = .next { s with ph := .p2 } := by
  have hexec : exec .step s = stepP1 s := execStep_p1 hf hp
  have hsample : sampleResetN s = (true, s) := by rw [sampleResetN, hreleased, sample_some]
  rw [hexec, stepP1_eq, hsample]
  rfl

/-- Settles O36: the reset button is found pressed or released, one lemma each. -/
theorem stepAtP1ServesTheResetButton : Obligations.StepAtP1ServesTheResetButton :=
  fun _ hf hp => ⟨exec_step_p1_of_pressed hf hp, exec_step_p1_of_released hf hp⟩

/-- A STEP at P2 writes MODE by the level the mode button shows, and takes no draw for it (R252). -/
theorem exec_step_p2_of_offered {s : State} {level : Level} (hf : s.flt = 0) (hp : s.ph = .p2)
    (hoffered : s.inputs.modeN = some level) :
    exec .step s = .next { s with mode := modeOf (pressed level), ph := .p3 } := by
  have hexec : exec .step s = stepP2 s := execStep_p2 hf hp
  have hsample : sampleModeN s = (level, s) := by rw [sampleModeN, hoffered, sample_some]
  rw [hexec, stepP2_eq, hsample]

/-- Settles O37: level 0 is pressed and selects Voltmeter, level 1 is released and selects Timer. -/
theorem stepAtP2FollowsTheModeButton : Obligations.StepAtP2FollowsTheModeButton :=
  fun _ hf hp => ⟨exec_step_p2_of_offered hf hp, exec_step_p2_of_offered hf hp⟩

/-! ## The refresh -/

/-- Settles O39: with PR clear, phase P3 is its idle branch. -/
theorem stepAtP3WithoutPendingOnlyMovesOn : Obligations.StepAtP3WithoutPendingOnlyMovesOn := by
  intro s hf hp hpr
  have hexec : exec .step s = stepP3 s := execStep_p3 hf hp
  rw [hexec, stepP3_idle hpr]

/-- The code a refresh holds: the one POT offers where the policy samples it, else the one held before (R253). -/
theorem holdVoltage_of_sampled_or_held {s : State} {code : Code}
    (h : (s.policy = .perDigit ∨ s.ad = 0) ∧ s.inputs.pot = some code ∨
      ¬ (s.policy = .perDigit ∨ s.ad = 0) ∧ code = s.vh) :
    holdVoltage s = { s with vh := code } := by
  rcases h with ⟨hsampled, hoffered⟩ | ⟨hheld, rfl⟩
  · exact holdVoltage_of_offered (samplesPot_iff.mpr hsampled) hoffered
  · exact holdVoltage_of_held (Bool.eq_false_iff.mpr (mt samplesPot_iff.mp hheld))

/-- Settles O40: the code is held, sampled or not, before the refresh renders; the frame is its digit and the table's
select byte of the position before the advance. -/
theorem stepAtP3RefreshesTheActiveDigit : Obligations.StepAtP3RefreshesTheActiveDigit := by
  intro s code seg sel hf _ hp hpr hsel hcode hseg
  have hexec : exec .step s = stepP3 s := execStep_p3 hf hp
  have hhold : holdVoltage (clearPending s) = { clearPending s with vh := code } :=
    holdVoltage_of_sampled_or_held hcode
  have hselect : selROM s.ad = sel := selROM_of_getElem? hsel
  rw [hexec, stepP3_refresh hpr (by rw [hhold]; exact hseg), hhold, hselect, getLsbD_zero_frameOf]
  rfl

/-! ## The phase -/

/-- Settles O42: each phase has its lemma of what its STEP leaves, and no other operation may write PH. -/
theorem stepNeverFaultsAndCyclesThePhase : Obligations.StepNeverFaultsAndCyclesThePhase := by
  refine ⟨fun s hf hes => ?cycles, fun i s t hi h => ?kept⟩
  case cycles =>
    rcases phase_cases s.ph with hp | hp | hp
    · obtain ⟨e, d, hexec, -⟩ := exec_step_p1_writes ⟨hf, hes, hp⟩
      exact ⟨_, hexec, hf, by rw [hp]⟩
    · obtain ⟨m, d, hexec, -⟩ := exec_step_p2_writes hf hp
      exact ⟨_, hexec, hf, by rw [hp]⟩
    · obtain ⟨t, hexec, htf, -, hph, -⟩ := exec_step_p3_of_running hf hes hp
      exact ⟨t, hexec, htf, by rw [hp, hph]⟩
  case kept =>
    obtain ⟨-, -, -, -, -, hph, -⟩ := operationsWriteOnlyTheirOwnState i s t h
    exact hph.resolve_right hi

/-! ## The held voltage -/

/-- Phase P3 keeps VH where the policy takes no sample, whether it refreshes, faults or has nothing pending. -/
theorem vh_of_stepP3_held {s t : State} (hheld : samplesPot s.policy s.ad = false) (h : stepP3 s = .next t) :
    t.vh = s.vh := by
  unfold stepP3 at h
  rw [holdVoltage_of_held (s := clearPending s) hheld] at h
  split at h
  · rcases finish_next h with ⟨seg, -, rfl⟩ | ⟨cause, -, rfl⟩
    · simp only [vh_serialize, clearPending_vh]
    · rfl
  · exact Host.Outcome.next.inj h ▸ rfl

/-- Under PER_CYCLE, an operation that changes VH is a STEP that refreshes position 0 (R253). -/
theorem refresh_at_zero_of_exec_changes_vh {i : Instr} {s t : State} (h : exec i s = .next t)
    (hpolicy : s.policy = .perCycle) (hvh : t.vh ≠ s.vh) : refreshDue s ∧ s.ad = 0 ∧ i = .step := by
  obtain ⟨-, -, -, -, hwrites, -⟩ := operationsWriteOnlyTheirOwnState i s t h
  obtain ⟨rfl, hp, hpr⟩ := hwrites.resolve_left hvh
  have hf : s.flt = 0 := by
    by_contra hhalted
    rw [exec_of_halted .step hhalted] at h
    exact hvh (Host.Outcome.next.inj h ▸ rfl)
  have had : s.ad = 0 := by
    by_contra hne
    have hheld : samplesPot s.policy s.ad = false := by
      rw [samplesPot, hpolicy, decide_eq_false hne]
      rfl
    exact hvh (vh_of_stepP3_held hheld ((execStep_p3 hf hp).symm.trans h))
  exact ⟨⟨hf, hp, hpr⟩, had, rfl⟩

/-- An illegal word writes at most FLT, so it keeps VH. -/
theorem vh_of_execIllegal {s t : State} (h : execIllegal s = .next t) : t.vh = s.vh := by
  rcases whenRunning_next h with ⟨-, rfl⟩ | ⟨-, hraise⟩
  · rfl
  · exact Host.Outcome.next.inj hraise ▸ rfl

theorem nextOp_of_word {s : State} {w : OpWord} {inputs : Inputs} {i : Instr} (hev : (takeEvent s).1 = .word w inputs)
    (hd : decode w = .ok i) : nextOp s = some i := by
  simp only [nextOp, hev, hd]

/-- Settles O43: the event is a power-on, or a word that keeps VH unless it runs a refresh of position 0; taking the
event changes nothing the refresh is told by. -/
theorem heldVoltageChangesOnlyAtPositionZero : Obligations.HeldVoltageChangesOnlyAtPositionZero := by
  intro s t hpolicy hstep hvh
  rw [step, takeEvent_snd] at hstep
  cases hev : (takeEvent s).1 with
  | powerOn chain out => exact .inl ⟨chain, out, rfl⟩
  | word w inputs =>
    rw [hev] at hstep
    cases hd : decode w with
    | error why =>
      simp only [execEvent, execWord, hd] at hstep
      exact absurd (vh_of_execIllegal hstep) hvh
    | ok i =>
      have hexec := (execWord_of_decode hd _).symm.trans hstep
      obtain ⟨hdue, had, rfl⟩ := refresh_at_zero_of_exec_changes_vh hexec hpolicy hvh
      exact .inr ⟨hdue, had, nextOp_of_word hev hd⟩

end Sys2Proof.Proofs

/-! SUPPORT. Proofs of the statements on faults and on the chain's outputs: the causes and the precision of a fault, the
halted core, and OUT while a frame is sent (spec/60_exceptions.md). -/

namespace Sys2Proof.Proofs

open Sys2Proof.Machine Sys2Proof.Safety

/-! ## The causes of a fault -/

/-- Whether a word is one that raises a fault of this cause on a running core (R281). -/
def RaisedBy (w : OpWord) : FaultCause → Prop
  | .illegalOp => ∃ why, decode w = .error why
  | .digitRange => ∃ d : Digit, decode w = .ok (.segenc d) ∧ 10 ≤ d.toNat
  | .operandRange => ∃ e : Elapsed, 6000 ≤ e.toNat ∧
      (decode w = .ok (.splitt e) ∨ ∃ p, decode w = .ok (.rendt p e))

theorem faultCode_injective : Function.Injective faultCode := by
  intro c c' h
  have hcause := congrArg causeOf h
  simpa using hcause

theorem execWord_of_error {w : OpWord} {why : DecodeReject} (h : decode w = .error why) (s : State) :
    execWord w s = execIllegal s := by
  simp only [execWord, h]

/-- A word that raises a fault writes FLT alone (R280). -/
theorem execWord_of_raisedBy {w : OpWord} {cause : FaultCause} {s : State} (hf : s.flt = 0) (h : RaisedBy w cause) :
    execWord w s = .next { s with flt := faultCode cause } := by
  cases cause with
  | illegalOp =>
    obtain ⟨why, hd⟩ := h
    rw [execWord_of_error hd]
    exact whenRunning_of_running hf
  | digitRange =>
    obtain ⟨d, hd, hge⟩ := h
    exact (execWord_of_decode hd s).trans (exec_segenc_of_ge hf hge)
  | operandRange =>
    obtain ⟨e, hge, hd | ⟨p, hd⟩⟩ := h
    · exact (execWord_of_decode hd s).trans (exec_splitt_of_ge hf hge)
    · exact (execWord_of_decode hd s).trans (exec_rendt_of_ge p hf hge)

/-- An operation that answers a result sets no fault. -/
theorem flt_of_exec_result {i : Instr} {s t : State} {r : OpWord} (hr : exec i s = .next { s with res := r })
    (h : exec i s = .next t) : t.flt = s.flt := by
  rw [hr] at h
  exact Host.Outcome.next.inj h ▸ rfl

theorem ge_of_segenc_fault {d : Digit} {s t : State} (hf : s.flt = 0) (h : exec (.segenc d) s = .next t)
    (hfault : t.flt ≠ 0) : 10 ≤ d.toNat := by
  by_contra hlt
  have hbyte : segROM d = .ok (segTable.getD d.toNat 0) := segEntry_of_lt (Nat.not_le.mp hlt)
  exact hfault ((flt_of_exec_result (exec_segenc_of_ok hf hbyte) h).trans hf)

theorem ge_of_splitt_fault {e : Elapsed} {s t : State} (hf : s.flt = 0) (h : exec (.splitt e) s = .next t)
    (hfault : t.flt ≠ 0) : 6000 ≤ e.toNat := by
  by_contra hlt
  exact hfault ((flt_of_exec_result (exec_splitt_of_lt hf (Nat.not_le.mp hlt)) h).trans hf)

theorem ge_of_rendt_fault {p : Position} {e : Elapsed} {s t : State} (hf : s.flt = 0)
    (h : exec (.rendt p e) s = .next t) (hfault : t.flt ≠ 0) : 6000 ≤ e.toNat := by
  by_contra hlt
  have hdigit := timerDigit_of_lt p (Nat.not_le.mp hlt)
  exact hfault ((flt_of_exec_result (exec_rendt_of_ok hf hdigit) h).trans hf)

/-- A word after which FLT is set is one of the listed causes: only SEGENC, SPLITT and RENDT may write FLT, and each
does so only beyond its range. -/
theorem exists_raisedBy_of_fault {w : OpWord} {s t : State} (hf : s.flt = 0) (hes : s.es.toNat < 6000)
    (h : execWord w s = .next t) (hfault : t.flt ≠ 0) : ∃ cause, RaisedBy w cause := by
  cases hd : decode w with
  | error why => exact ⟨.illegalOp, why, hd⟩
  | ok i =>
    rw [execWord_of_decode hd] at h
    obtain ⟨-, -, -, -, -, -, -, hflt, -⟩ := operationsWriteOnlyTheirOwnState i s t h
    have hnew : t.flt ≠ s.flt := hf ▸ hfault
    rcases (hflt hes).resolve_left hnew with ⟨d, rfl⟩ | ⟨e, rfl⟩ | ⟨p, e, rfl⟩
    · exact ⟨.digitRange, d, hd, ge_of_segenc_fault hf h hfault⟩
    · exact ⟨.operandRange, e, ge_of_splitt_fault hf h hfault, .inl hd⟩
    · exact ⟨.operandRange, e, ge_of_rendt_fault hf h hfault, .inr ⟨p, hd⟩⟩

/-- The causes as FLT tells them: each code stands for the words that raise it, and no others. -/
theorem flt_eq_faultCode_iff {w : OpWord} {s t : State} (hf : s.flt = 0) (hes : s.es.toNat < 6000)
    (h : execWord w s = .next t) (cause : FaultCause) : t.flt = faultCode cause ↔ RaisedBy w cause := by
  constructor
  · intro hcode
    obtain ⟨raised, hraised⟩ := exists_raisedBy_of_fault hf hes h (hcode ▸ faultCode_ne_zero cause)
    rw [execWord_of_raisedBy hf hraised] at h
    obtain rfl := Host.Outcome.next.inj h
    exact faultCode_injective hcode ▸ hraised
  · intro hraised
    rw [execWord_of_raisedBy hf hraised] at h
    exact Host.Outcome.next.inj h ▸ rfl

/-- Settles O50: a word that leaves FLT set has a listed cause, and a word with one writes its code to FLT alone. -/
theorem faultsArePreciseAndOfTheListedCauses : Obligations.FaultsArePreciseAndOfTheListedCauses := by
  intro w s t hf hes h
  refine ⟨fun hfault => ?precise, flt_eq_faultCode_iff hf hes h .illegalOp, flt_eq_faultCode_iff hf hes h .digitRange,
    flt_eq_faultCode_iff hf hes h .operandRange⟩
  obtain ⟨cause, hraised⟩ := exists_raisedBy_of_fault hf hes h hfault
  rw [execWord_of_raisedBy hf hraised] at h
  exact Host.Outcome.next.inj h ▸ rfl

/-! ## The outputs while a frame is sent -/

/-- Only a write of 1 to LATCH can change OUT (R300). -/
theorem out_driveWire_of_ne {e : PinEvent} (h : e ≠ ⟨.latch, true⟩) (w : Wires) : (driveWire e w).out = w.out := by
  obtain ⟨pin, level⟩ := e
  cases pin with
  | data => rfl
  | clock => rfl
  | latch =>
    have hlow : level = false := by simpa using h
    rw [hlow]
    rfl

theorem out_replay_of_forall_ne {es : List PinEvent} (h : ∀ e ∈ es, e ≠ ⟨.latch, true⟩) (w : Wires) :
    (replay es w).out = w.out := by
  induction es generalizing w with
  | nil => rfl
  | cons e es ih =>
    obtain ⟨he, hes⟩ := List.forall_mem_cons.mp h
    rw [replay_cons, ih hes, out_driveWire_of_ne he]

/-- The pin writes of a frame before its last one leave LATCH at 0 (R161). -/
theorem ne_latch_high_of_mem_take {f : Frame} {n : Nat} (hn : n < 50) {e : PinEvent}
    (h : e ∈ (frameEvents f).take n) : e ≠ ⟨.latch, true⟩ := by
  have hle : n ≤ ([⟨.latch, false⟩] ++ bitEvents f 16 : List PinEvent).length := by
    rw [List.length_append, length_bitEvents, List.length_singleton]
    omega
  rw [frameEvents_eq, List.take_append_of_le_length hle] at h
  have hstart := List.mem_of_mem_take h
  rintro rfl
  simp [bitEvents_eq_flatMap] at hstart

/-- Settles O26: the one write of 1 to LATCH is the frame's last pin write, and no other one can change OUT. -/
theorem outputsStayFrozenUntilTheLatchRises : Obligations.OutputsStayFrozenUntilTheLatchRises :=
  fun _ w _ hn => out_replay_of_forall_ne (fun _ => ne_latch_high_of_mem_take hn) w

/-! ## The halted core -/

/-- A halted core takes no effect from any word, legal or not (R282). -/
theorem execWord_of_halted (w : OpWord) {s : State} (h : s.flt ≠ 0) : execWord w s = .next s := by
  cases hd : decode w with
  | error why =>
    rw [execWord_of_error hd]
    exact whenRunning_of_halted h
  | ok i => rw [execWord_of_decode hd, exec_of_halted i h]

/-- Every value of FLT but 0 is the code of a cause (R281). -/
theorem exists_faultCode_eq {flt : BitVec 2} (h : flt ≠ 0) : ∃ cause, faultCode cause = flt := by
  have hcode : flt = 1 ∨ flt = 2 ∨ flt = 3 := by revert flt; decide
  rcases hcode with rfl | rfl | rfl
  · exact ⟨.illegalOp, rfl⟩
  · exact ⟨.digitRange, rfl⟩
  · exact ⟨.operandRange, rfl⟩

theorem verdict_of_faultCode {s : State} {cause : FaultCause} (h : faultCode cause = s.flt) :
    verdict s = .fault (.halted cause) := by
  rw [verdict, ← h, causeOf_faultCode]

/-- Settles O4: every check for a halt leaves the state as it is, a power-on writes FLT whatever it was, and the code in
FLT names the cause the verdict gives. -/
theorem haltedCoreTakesNoEffectUntilPowerOn : Obligations.HaltedCoreTakesNoEffectUntilPowerOn := by
  intro s hhalted
  refine ⟨fun i => exec_of_halted i hhalted, fun w inputs rest hev => ?word,
    fun chain out rest hev => ⟨_, step_of_event hev, powerOn_flt ..⟩, ?verdict⟩
  case word =>
    rw [step_of_event hev]
    exact execWord_of_halted w hhalted
  case verdict =>
    obtain ⟨cause, hcode⟩ := exists_faultCode_eq hhalted
    exact ⟨cause, hcode, verdict_of_faultCode hcode⟩

end Sys2Proof.Proofs

/-! SUPPORT. Proof of the statement that no operation blocks: every word, every operation and every step answers a next
state (spec/70_reset_and_hazards.md R347; spec/60_exceptions.md R282). -/

namespace Sys2Proof.Proofs

open Sys2Proof.Machine

/-- A pure query ends with its value in RES or with its fault in FLT (R280), and both are next states. -/
theorem exec_query_answers_next {i : Instr} {s : State} (hf : s.flt = 0)
    (hi : (∃ d, i = .segenc d) ∨ (∃ p, i = .selenc p) ∨ (∃ e, i = .splitt e) ∨ (∃ c, i = .splitv c) ∨
      (∃ p e, i = .rendt p e) ∨ (∃ p c, i = .rendv p c)) :
    ∃ t, exec i s = .next t := by
  obtain ⟨value, hvalue⟩ := exec_query_eq_finish hi
  rw [hvalue s hf]
  exact finish_answers_next ..

theorem exec_answers_next_of_running (i : Instr) {s : State} (hf : s.flt = 0) : ∃ t, exec i s = .next t := by
  cases i with
  | segenc | selenc | splitt | splitv | rendt | rendv => exact exec_query_answers_next hf (by simp)
  | write a b => exact ⟨_, exec_write_of_running hf a b⟩
  | tick => exact ⟨_, exec_tick_of_running hf⟩
  | treset => exact ⟨_, exec_treset_of_running hf⟩
  | tread => exact ⟨_, exec_tread_of_running hf⟩
  | rtick => exact ⟨_, exec_rtick_of_running hf⟩
  | step => exact execStep_answers_next hf

/-- Every operation answers a next state: a halted core answers the state it is in (R282). -/
theorem exec_answers_next (i : Instr) (s : State) : ∃ t, exec i s = .next t := by
  by_cases hf : s.flt = 0
  · exact exec_answers_next_of_running i hf
  · exact ⟨s, exec_of_halted i hf⟩

/-- An illegal word answers a next state: its fault in FLT (R109), or, on a halted core, no effect (R282). -/
theorem execIllegal_answers_next (s : State) : ∃ t, execIllegal s = .next t := by
  by_cases hf : s.flt = 0
  · exact ⟨_, whenRunning_of_running hf⟩
  · exact ⟨s, whenRunning_of_halted hf⟩

theorem execWord_answers_next (w : OpWord) (s : State) : ∃ t, execWord w s = .next t := by
  cases hd : decode w with
  | ok i =>
    rw [execWord_of_decode hd]
    exact exec_answers_next i s
  | error why =>
    rw [execWord_of_error hd]
    exact execIllegal_answers_next s

theorem execEvent_answers_next (event : Event) (s : State) : ∃ t, execEvent event s = .next t := by
  cases event with
  | word w inputs => exact execWord_answers_next w (showInputs inputs s)
  | powerOn chain out => exact ⟨powerOn chain out s, rfl⟩

/-- Settles O3: a step is one event in the state with that event taken, and every event and every operation answers a
next state, its fault and the halted core included. -/
theorem everyStepAnswersANextState : Obligations.EveryStepAnswersANextState :=
  ⟨fun s => execEvent_answers_next (takeEvent s).1 (takeEvent s).2, exec_answers_next⟩

end Sys2Proof.Proofs
